-- ==== Sys2Proof/Word.lean ====
section
/-! DEFINITION. The fixed-width words of the core: every value whose width the spec states as a number of bits and
treats as bits. Registers whose width depends on the configuration are naturals with range invariants, as 00_scope.md
R12 allows (log 6). -/

namespace Sys2Proof

/-- The per-cycle input vector `IN`, 13 bits (30_encoding.md R80). -/
abbrev InVec := BitVec 13
/-- The fast path's select vector `SSEL` (30_encoding.md R71). -/
abbrev SselWord := BitVec 5
/-- The slow path's select vector `ASEL` (30_encoding.md R73). -/
abbrev AselWord := BitVec 9
/-- A segment byte: bit 7 the decimal point, bits 6:0 segments g down to a (20_memory.md R53). -/
abbrev SegByte := BitVec 8
/-- An entry of `SEG_TABLE`, 7 bits (10_state.md R42). -/
abbrev SegPattern := BitVec 7
/-- The digit-enable lines: bit `p` is line `p`. `D` is at most 8, so 8 bits hold every width; the bits from `D` up are
no lines and stay 0 (10_state.md R26; log 7, DESIGN CHOICE, safe). -/
abbrev DigitLines := BitVec 8
/-- A converter result, 10 bits (10_state.md R31). -/
abbrev RawSample := BitVec 10
/-- The 4-bit digit operand of SEG_ENCODE (30_encoding.md R78). -/
abbrev Digit := BitVec 4
/-- The 14-bit value operand of DEC_SPLIT and DIGIT_PATTERNS (30_encoding.md R78). -/
abbrev Value := BitVec 14

end Sys2Proof
end

