-- ==== Sys2Proof/Config.lean ====
section
/-! DEFINITION. The configuration record of 00_scope.md R9 and R10, its test values, and the one free value of the
model: the environment's input draws. -/

namespace Sys2Proof

/-- `RAW_W`, the converter result's width (R10, fixed). -/
def rawW : Nat := 10
/-- `MEAS_MAX`, the clamp ceiling of a scaled measurement (R10, fixed). -/
def measMax : Nat := 9999
/-- `CHW`, the width of the converter channel port (R10, fixed; D21). -/
def chW : Nat := 3

/-- The elaboration-time parameters of 00_scope.md R10. No port, register or operation changes one (R9). `T_TICK` is
not among them: R10 says it is not modelled. `RAW_W`, `MEAS_MAX` and `CHW` are fixed. -/
structure Config where
  /-- `D`, the digit count, 1 to 8. -/
  digits : Nat
  /-- `N`, the filter window's size, 1 or more. -/
  window : Nat
  /-- `ON_TICKS`, 1 or more. -/
  onTicks : Nat
  /-- `BLANK_TICKS`, 1 or more. -/
  blankTicks : Nat
  /-- `K`, scheduler cycles per acquisition request, 1 or more. -/
  cadence : Nat
  /-- `REF_SCALE`, 1 or more. -/
  refScale : Nat
  /-- `FULL_SCALE`, 1 or more. -/
  fullScale : Nat
  /-- `ROUND_HALF`, 0 or more; this hardware takes `FULL_SCALE div 2` (R142; log 20). -/
  roundHalf : Nat
  /-- `DP_POS`, 0 to D-1, or none. -/
  dpPos : Option Nat
  /-- `BLANK_LZ`, blank leading zeros. -/
  blankLz : Bool
  /-- `SEG_TABLE`, ten 7-bit patterns (R42, R101). -/
  segTable : List SegPattern
  /-- `ADC_CHANNEL`, 0 to 2^CHW - 1. -/
  adcChannel : Nat
  /-- `ADC_TIMEOUT`, 0 = wait for ever. -/
  adcTimeout : Nat
  deriving DecidableEq, Repr

/-- The parameters whose range a configuration can miss: the `<name>` of `refuse Config(<name>)` (R11, R15; log 12). -/
inductive ConfigParam where
  /-- `D` is not in 1 .. 8. -/
  | digits
  /-- `N` is 0. -/
  | window
  /-- `ON_TICKS` is 0. -/
  | onTicks
  /-- `BLANK_TICKS` is 0. -/
  | blankTicks
  /-- `K` is 0. -/
  | cadence
  /-- `REF_SCALE` is 0. -/
  | refScale
  /-- `FULL_SCALE` is 0. -/
  | fullScale
  /-- `DP_POS` is a digit index that is `D` or above. -/
  | dpPos
  /-- `SEG_TABLE` has not exactly ten entries. -/
  | segTable
  /-- `ADC_CHANNEL` does not fit `CHW` bits. -/
  | adcChannel
  deriving DecidableEq, Repr

/-- The default `SEG_TABLE` of 40_segment_encoder_lut.md R101 (there marked general knowledge, not in source: log 13). -/
def Config.defaultSegTable : List SegPattern :=
  [0x3F, 0x06, 0x5B, 0x4F, 0x66, 0x6D, 0x7D, 0x07, 0x7F, 0x6F]

/-- The test configuration of R10 and of 95_test_vectors.md. DESIGN CHOICE (log 1): State.reset holds it because the
host's reset takes no argument; R10 leaves N, ON_TICKS, BLANK_TICKS, K, REF_SCALE, FULL_SCALE and ADC_CHANNEL open. -/
def Config.test : Config where
  digits := 4
  window := 8
  onTicks := 1
  blankTicks := 1
  cadence := 1
  refScale := 5000
  fullScale := 1024
  roundHalf := 512
  dpPos := some 2
  blankLz := false
  segTable := Config.defaultSegTable
  adcChannel := 0
  adcTimeout := 0

/-- FREE VALUE (00_scope.md R8, D32: inputs are free draws at every cycle; log 2). The input vector that the environment
presents at draw number `n`. No body: nothing in the model constrains it. -/
opaque Config.envInput (n : Nat) : InVec

end Sys2Proof
end

