-- ==== Sys2Proof/Machine/Widths.lean ====
section
/-! DEFINITION. The register widths of 00_scope.md R12. The registers themselves are naturals; a statement says that
each stays within its width. -/

namespace Sys2Proof.Machine

/-- `clog2(x)`, the least `w` with `2^w >= x` (R12). -/
def clog2 (x : Nat) : Nat := if x ≤ 1 then 0 else Nat.log2 (x - 1) + 1

/-- `bits(x) = max(1, clog2(x))` (R12). -/
def bits (x : Nat) : Nat := max 1 (clog2 x)

/-- `POS_W` (R12). -/
def posW (c : Config) : Nat := bits c.digits
/-- `DW_W` (R12). -/
def dwW (c : Config) : Nat := bits (max c.onTicks c.blankTicks)
/-- `CYC_W` (R12). -/
def cycW (c : Config) : Nat := bits c.cadence
/-- `IDX_W` (R12). -/
def idxW (c : Config) : Nat := bits c.window
/-- `SC_W` (R12). -/
def scW (c : Config) : Nat := bits (c.window + 1)
/-- `SUM_W` (R12). -/
def sumW (c : Config) : Nat := bits (c.window * 9999 + 1)
/-- `WC_W` (R12). -/
def wcW (c : Config) : Nat := bits (max 1 c.adcTimeout)
/-- `MEAS_W` (R12). -/
def measW : Nat := 14

end Sys2Proof.Machine
end

