-- ==== Sys2Proof/Syntax.lean ====
section
/-! DEFINITION. The operations: one constructor for each of the 25 rows of spec/opcode_table.json, in the order of
30_encoding.md R70. The operations an agent selects take their operands from registers and inputs, so their
constructors have no argument; the five combinational functions have the operand fields of 30_encoding.md R78. -/

namespace Sys2Proof

inductive Instr where
  /-- SEG_ENCODE(d, dp), 40_segment_encoder_lut.md R102. -/
  | segEncode (d : Digit) (dp : Bool)
  /-- ACQ_SEED, 41_moving_average_filter.md R123. -/
  | acqSeed
  /-- ACQ_SEED_LAST, 41_moving_average_filter.md R124. -/
  | acqSeedLast
  /-- ACQ_UPDATE, 41_moving_average_filter.md R125. -/
  | acqUpdate
  /-- AVERAGE(sum), 41_moving_average_filter.md R126; the operand's width is `SUM_W`, which depends on the configuration. -/
  | average (sum : Nat)
  /-- SCALE_CLAMP(raw), 42_fixed_point_scaler_and_limiter.md R141. -/
  | scaleClamp (raw : RawSample)
  /-- ACQ_SCALE, 42_fixed_point_scaler_and_limiter.md R144. -/
  | acqScale
  /-- DEC_SPLIT(v), 42_fixed_point_scaler_and_limiter.md R146. -/
  | decSplit (v : Value)
  /-- SCH_RESET, 43_refresh_scheduler.md R162. -/
  | schReset
  /-- SCH_WAIT_VALID, 43_refresh_scheduler.md R163. -/
  | schWaitValid
  /-- SCH_NO_TICK, 43_refresh_scheduler.md R164. -/
  | schNoTick
  /-- SCH_DWELL, 43_refresh_scheduler.md R165. -/
  | schDwell
  /-- SCH_BLANK_TO_SHOW, 43_refresh_scheduler.md R166. -/
  | schBlankToShow
  /-- SCH_SHOW_TO_BLANK, 43_refresh_scheduler.md R167. -/
  | schShowToBlank
  /-- ACQ_RESET, 44_acquisition_and_digit_buffer.md R202. -/
  | acqReset
  /-- ACQ_IDLE, 44_acquisition_and_digit_buffer.md R203. -/
  | acqIdle
  /-- ACQ_LAUNCH, 44_acquisition_and_digit_buffer.md R204. -/
  | acqLaunch
  /-- ACQ_START, 44_acquisition_and_digit_buffer.md R205. -/
  | acqStart
  /-- ACQ_POLL, 44_acquisition_and_digit_buffer.md R206. -/
  | acqPoll
  /-- ACQ_CAPTURE, 44_acquisition_and_digit_buffer.md R207. -/
  | acqCapture
  /-- ACQ_TIMEOUT, 44_acquisition_and_digit_buffer.md R208. -/
  | acqTimeout
  /-- ACQ_RESERVED_STATE, 44_acquisition_and_digit_buffer.md R209. -/
  | acqReservedState
  /-- DIGIT_PATTERNS(v), 44_acquisition_and_digit_buffer.md R216. -/
  | digitPatterns (v : Value)
  /-- ACQ_BUILD, 44_acquisition_and_digit_buffer.md R218. -/
  | acqBuild
  /-- ACQ_PUBLISH, 44_acquisition_and_digit_buffer.md R219. -/
  | acqPublish
  deriving DecidableEq, Repr

/-- The agent that performs an operation, or the calling of a function (30_encoding.md R70). -/
inductive Agent where
  | fastPath
  | slowPath
  | function
  deriving DecidableEq, Repr

/-- Column "agent" of the operation map, 30_encoding.md R70. -/
def Instr.agent : Instr → Agent
  | .segEncode _ _ => .function
  | .average _ => .function
  | .scaleClamp _ => .function
  | .decSplit _ => .function
  | .digitPatterns _ => .function
  | .schReset => .fastPath
  | .schWaitValid => .fastPath
  | .schNoTick => .fastPath
  | .schDwell => .fastPath
  | .schBlankToShow => .fastPath
  | .schShowToBlank => .fastPath
  | .acqReset => .slowPath
  | .acqIdle => .slowPath
  | .acqLaunch => .slowPath
  | .acqStart => .slowPath
  | .acqPoll => .slowPath
  | .acqCapture => .slowPath
  | .acqTimeout => .slowPath
  | .acqReservedState => .slowPath
  | .acqScale => .slowPath
  | .acqSeed => .slowPath
  | .acqSeedLast => .slowPath
  | .acqUpdate => .slowPath
  | .acqBuild => .slowPath
  | .acqPublish => .slowPath

/-- The pseudo-vectors of the stimulus notation, 30_encoding.md R81. -/
inductive StimVector where
  /-- `0x` and four hexadecimal digits: the vector itself. -/
  | hex (v : InVec)
  /-- `RST`. -/
  | rst
  /-- `NOP`. -/
  | nop
  /-- `TICK`. -/
  | tick
  /-- `DONE value`. -/
  | done (value : RawSample)
  /-- `TICK DONE value`. -/
  | tickDone (value : RawSample)
  /-- `DATA value`. -/
  | data (value : RawSample)
  deriving DecidableEq, Repr

/-- A line of a stimulus program: `count '*' vector`; a line without a count has count 1 (30_encoding.md R81). -/
structure StimLine where
  count : Nat
  vector : StimVector
  deriving DecidableEq, Repr

end Sys2Proof
end

