-- ==== Sys2Proof/WellFormed.lean ====
section
/-! DEFINITION. Which configurations are legal (00_scope.md R10, R11), which operations are well-formed (30_encoding.md
R78) and which stimulus programs are (30_encoding.md R81, 70_reset_and_hazards.md R272). -/

namespace Sys2Proof

/-- The first parameter of R10 that lies outside its legal range, if there is one (R11). `ROUND_HALF`, `BLANK_LZ` and
`ADC_TIMEOUT` have no illegal value, and the entries of `SEG_TABLE` have 7 bits by their type. -/
def Config.check (c : Config) : Option ConfigParam :=
  if c.digits < 1 ∨ 8 < c.digits then some .digits
  else if c.window < 1 then some .window
  else if c.onTicks < 1 then some .onTicks
  else if c.blankTicks < 1 then some .blankTicks
  else if c.cadence < 1 then some .cadence
  else if c.refScale < 1 then some .refScale
  else if c.fullScale < 1 then some .fullScale
  else if c.dpPos.any (fun p => decide (c.digits ≤ p)) then some .dpPos
  else if c.segTable.length ≠ 10 then some .segTable
  else if 2 ^ chW ≤ c.adcChannel then some .adcChannel
  else none

/-- A legal configuration (R11). -/
abbrev Config.Legal (c : Config) : Prop := c.check = none

/-- Well-formed operations. Every value of an operand that fits its field is legal (R78); the widths of all operands but
AVERAGE's are carried by their types, and AVERAGE's operand must fit `SUM_W` bits. -/
def Instr.wf (c : Config) : Instr → Bool
  | .average sum => decide (sum < 2 ^ Machine.sumW c)
  | .segEncode _ _ => true
  | .scaleClamp _ => true
  | .decSplit _ => true
  | .digitPatterns _ => true
  | .schReset => true
  | .schWaitValid => true
  | .schNoTick => true
  | .schDwell => true
  | .schBlankToShow => true
  | .schShowToBlank => true
  | .acqReset => true
  | .acqIdle => true
  | .acqLaunch => true
  | .acqStart => true
  | .acqPoll => true
  | .acqCapture => true
  | .acqTimeout => true
  | .acqReservedState => true
  | .acqScale => true
  | .acqSeed => true
  | .acqSeedLast => true
  | .acqUpdate => true
  | .acqBuild => true
  | .acqPublish => true

/-- A stimulus program given as its vectors, one per cycle, is well-formed when its first asserts `rst`, bit 12
(70_reset_and_hazards.md R272). -/
def stimulusWf : List InVec → Bool
  | [] => false
  | v :: _ => v.getLsbD 12

end Sys2Proof
end

