-- ==== Sys2Proof/Decode.lean ====
section
/-! DEFINITION. The decoder of the select vectors and of the function operands (30_encoding.md R72, R74, R78), total
and rejecting by name, then the encoder, written from the same tables. -/

namespace Sys2Proof

/-- What a word is to be read as: one of the two select vectors (R71, R73) or the operand of a function (R78). The
function formats are told apart by the caller: no bit of a word names them. -/
inductive Format where
  | ssel
  | asel
  | segEncode
  | average
  | scaleClamp
  | decSplit
  | digitPatterns
  deriving DecidableEq, Repr

/-- Why a word is rejected. -/
inductive DecodeError where
  /-- The word has a bit set above the format's width. -/
  | tooWide (f : Format)
  /-- No row of the table matches; R75 says this does not happen. -/
  | noRow (f : Format)
  deriving DecidableEq, Repr

/-- A row of the tables of R72 and R74. -/
structure SelRow (w : Nat) where
  op : Instr
  pattern : BitVec w
  mask : BitVec w
  deriving DecidableEq, Repr

/-- `(SEL and mask) = match` (R72, R74). -/
def rowMatches {w : Nat} (r : SelRow w) (v : BitVec w) : Bool := v &&& r.mask == r.pattern

/-- The table of 30_encoding.md R72. -/
def sselRows : List (SelRow 5) :=
  [⟨.schReset, 0b10000, 0b10000⟩,
   ⟨.schWaitValid, 0b00000, 0b11000⟩,
   ⟨.schNoTick, 0b01000, 0b11100⟩,
   ⟨.schDwell, 0b01100, 0b11101⟩,
   ⟨.schBlankToShow, 0b01101, 0b11111⟩,
   ⟨.schShowToBlank, 0b01111, 0b11111⟩]

/-- The table of 30_encoding.md R74. -/
def aselRows : List (SelRow 9) :=
  [⟨.acqReset, 0x100, 0x100⟩,
   ⟨.acqIdle, 0x000, 0x1F0⟩,
   ⟨.acqLaunch, 0x010, 0x1F0⟩,
   ⟨.acqStart, 0x020, 0x1E0⟩,
   ⟨.acqPoll, 0x040, 0x1EC⟩,
   ⟨.acqTimeout, 0x044, 0x1EC⟩,
   ⟨.acqCapture, 0x048, 0x1E8⟩,
   ⟨.acqScale, 0x060, 0x1E0⟩,
   ⟨.acqUpdate, 0x080, 0x1E2⟩,
   ⟨.acqSeed, 0x082, 0x1E3⟩,
   ⟨.acqSeedLast, 0x083, 0x1E3⟩,
   ⟨.acqBuild, 0x0A0, 0x1E0⟩,
   ⟨.acqPublish, 0x0C0, 0x1E0⟩,
   ⟨.acqReservedState, 0x0E0, 0x1E0⟩]

/-- The fast-path operation that a value of `SSEL` selects: the first row it matches (R72). -/
def decodeSsel (v : SselWord) : Option Instr := (sselRows.find? (rowMatches · v)).map (·.op)

/-- The slow-path operation that a value of `ASEL` selects (R74). -/
def decodeAsel (v : AselWord) : Option Instr := (aselRows.find? (rowMatches · v)).map (·.op)

/-- The width of a format: 5 and 9 bits for the select vectors (R71, R73), the operand widths of R78 for the functions. -/
def formatWidth (c : Config) : Format → Nat
  | .ssel => 5
  | .asel => 9
  | .segEncode => 5
  | .average => Machine.sumW c
  | .scaleClamp => 10
  | .decSplit => 14
  | .digitPatterns => 14

/-- The operation selected, or the rejection of a vector that matches no row. -/
def orNoRow (f : Format) : Option Instr → Except DecodeError Instr
  | some i => .ok i
  | none => .error (.noRow f)

/-- Reads a word that fits its format. SEG_ENCODE's operand is `dp` in bit 4 and `d` in bits 3:0 (R78). -/
def decodeFitting (f : Format) (w : Nat) : Except DecodeError Instr :=
  match f with
  | .ssel => orNoRow .ssel (decodeSsel (BitVec.ofNat 5 w))
  | .asel => orNoRow .asel (decodeAsel (BitVec.ofNat 9 w))
  | .segEncode => .ok (.segEncode (BitVec.ofNat 4 w) (w.testBit 4))
  | .average => .ok (.average w)
  | .scaleClamp => .ok (.scaleClamp (BitVec.ofNat 10 w))
  | .decSplit => .ok (.decSplit (BitVec.ofNat 14 w))
  | .digitPatterns => .ok (.digitPatterns (BitVec.ofNat 14 w))

/-- The decoder, total on every format and every natural number: a word wider than its format is rejected by name. -/
def decode (c : Config) (f : Format) (w : Nat) : Except DecodeError Instr :=
  if w < 2 ^ formatWidth c f then decodeFitting f w else .error (.tooWide f)

/-- The instruction of a row of the opcode table read from its bits: a row of at most 8 bits in whole bytes is an SSEL
word, one of at most 16 an ASEL word. The rows of the functions fix no bit (their match and mask are 0) and share these
sizes, so no word of the table stands for one of them (log 19). -/
def decodeTableWord (nbits w : Nat) : Option Instr :=
  if nbits ≤ 8 then (if w < 2 ^ 5 then decodeSsel (BitVec.ofNat 5 w) else none)
  else if nbits ≤ 16 then (if w < 2 ^ 9 then decodeAsel (BitVec.ofNat 9 w) else none)
  else none

/-- The format an operation is written in. -/
def formatOf : Instr → Format
  | .segEncode _ _ => .segEncode
  | .average _ => .average
  | .scaleClamp _ => .scaleClamp
  | .decSplit _ => .decSplit
  | .digitPatterns _ => .digitPatterns
  | .schReset => .ssel
  | .schWaitValid => .ssel
  | .schNoTick => .ssel
  | .schDwell => .ssel
  | .schBlankToShow => .ssel
  | .schShowToBlank => .ssel
  | .acqReset => .asel
  | .acqIdle => .asel
  | .acqLaunch => .asel
  | .acqStart => .asel
  | .acqPoll => .asel
  | .acqCapture => .asel
  | .acqTimeout => .asel
  | .acqReservedState => .asel
  | .acqScale => .asel
  | .acqSeed => .asel
  | .acqSeedLast => .asel
  | .acqUpdate => .asel
  | .acqBuild => .asel
  | .acqPublish => .asel

/-- The word of an operation: the `match` column of R72 and R74, don't-care bits 0, or the operand fields of R78. -/
def encodeWord : Instr → Nat
  | .segEncode d dp => dp.toNat * 16 + d.toNat
  | .average sum => sum
  | .scaleClamp raw => raw.toNat
  | .decSplit v => v.toNat
  | .digitPatterns v => v.toNat
  | .schReset => 0b10000
  | .schWaitValid => 0b00000
  | .schNoTick => 0b01000
  | .schDwell => 0b01100
  | .schBlankToShow => 0b01101
  | .schShowToBlank => 0b01111
  | .acqReset => 0x100
  | .acqIdle => 0x000
  | .acqLaunch => 0x010
  | .acqStart => 0x020
  | .acqPoll => 0x040
  | .acqTimeout => 0x044
  | .acqCapture => 0x048
  | .acqScale => 0x060
  | .acqUpdate => 0x080
  | .acqSeed => 0x082
  | .acqSeedLast => 0x083
  | .acqBuild => 0x0A0
  | .acqPublish => 0x0C0
  | .acqReservedState => 0x0E0

/-- The encoder: an operation's format and word. -/
def encode (i : Instr) : Format × Nat := (formatOf i, encodeWord i)

end Sys2Proof
end

