-- ==== Sys2Proof/Machine/State.lean ====
section
/-! DEFINITION. The state: the registers of 10_state.md R22 to R41, grouped by the agent that owns them (R21), and the
model's own fields; the faults, the refusals, and the state after reset (70_reset_and_hazards.md R270). -/

namespace Sys2Proof.Machine

/-- The phase of the refresh scheduler, 1 bit: 0 Blank, 1 Show (10_state.md R22). -/
inductive Phase where
  | blank
  | lit
  deriving DecidableEq, Repr

/-- The slow-path state, 3 bits, in the order of its codes 0 to 7 (10_state.md R29). The reserved value 7 is
represented, so that ACQ_RESERVED_STATE has a state to act on (30_encoding.md R76; log 8). -/
inductive AState where
  | idle
  | start
  | wait
  | scale
  | filter
  | build
  | publish
  | reserved
  deriving DecidableEq, Repr

/-- The fast path's registers (10_state.md R21). -/
structure FastRegs where
  /-- `phase` (R22). -/
  phase : Phase
  /-- `pos` (R23). -/
  pos : Nat
  /-- `dwell` (R24). -/
  dwell : Nat
  /-- `cyc` (R25). -/
  cyc : Nat
  /-- `dig_en` (R26). -/
  digEn : DigitLines
  /-- `seg` (R27). -/
  seg : SegByte
  deriving DecidableEq, Repr

/-- The slow path's registers (10_state.md R21). -/
structure SlowRegs where
  /-- `astate` (R29). -/
  astate : AState
  /-- `wcnt` (R30). -/
  wcnt : Nat
  /-- `raw` (R31). -/
  raw : RawSample
  /-- `meas` (R32). -/
  meas : Nat
  /-- `ring[0 .. N-1]` (R33). -/
  ring : List Nat
  /-- `idx` (R34). -/
  idx : Nat
  /-- `sum` (R35). -/
  sum : Nat
  /-- `seed_cnt` (R36). -/
  seedCnt : Nat
  /-- `bank[0][0 .. D-1]` (R37). -/
  bank0 : List SegByte
  /-- `bank[1][0 .. D-1]` (R37). -/
  bank1 : List SegByte
  /-- `act` (R38): `true` selects bank 1. -/
  act : Bool
  /-- `disp_valid` (R39). -/
  dispValid : Bool
  /-- `pub_val` (R40). -/
  pubVal : Nat
  /-- `acq_fault` (R41). -/
  acqFault : Bool
  deriving DecidableEq, Repr

/-- The result of a combinational function (30_encoding.md R78, column "result"). -/
inductive FnResult where
  /-- SEG_ENCODE: an 8-bit pattern. -/
  | pattern (p : SegByte)
  /-- SCALE_CLAMP and AVERAGE: a value. -/
  | value (v : Nat)
  /-- DEC_SPLIT: `D` digits, index 0 the least significant. -/
  | digits (ds : List Nat)
  /-- DIGIT_PATTERNS: `D` patterns, index 0 the least significant. -/
  | patterns (ps : List SegByte)
  deriving DecidableEq, Repr

/-- The machine's state. `fast`, `acqPend` and `slow` hold exactly the registers of 10_state.md R22 to R41; the other
four fields are the MODEL's own (INVENTORY.md, "State"). -/
structure State where
  /-- Model's own: the configuration, which no operation writes (R9; log 1). -/
  cfg : Config
  /-- The fast path's registers. -/
  fast : FastRegs
  /-- `acq_pend` (R28), the one register with two writers. -/
  acqPend : Bool
  /-- The slow path's registers. -/
  slow : SlowRegs
  /-- Model's own: the input vectors already fixed for the present cycle and the ones after it (30_encoding.md R81; log 2). -/
  stim : List InVec
  /-- Model's own: the number of the next free draw (log 2). -/
  drawIdx : Nat
  /-- Model's own: the result of the last function executed as a row of the table (log 4). -/
  fnOut : Option FnResult
  deriving DecidableEq, Repr

/-- The core raises no exception, trap or interrupt (60_exceptions.md R240, R249): there is no fault, so this type has no
constructor and no step of the model ends in one (log 15). -/
inductive Fault where
  deriving DecidableEq, Repr

/-- Why a step, or the loading of a stimulus, is refused. -/
inductive Refusal where
  /-- An operation that has no meaning yet: raised by no arm of `exec`. Safe. -/
  | notModelled (mnemonic : String)
  /-- `refuse Config(<name>)`: raised by `step`, before anything else, for an illegal configuration (00_scope.md R11,
  60_exceptions.md R246). Safe: such a configuration describes no hardware. -/
  | illegalConfig (name : ConfigParam)
  /-- A stimulus program whose first line does not assert `rst`: raised by `loadProgram` only (70_reset_and_hazards.md R272:
  a model may refuse it). Safe. -/
  | programWithoutReset
  /-- A select vector that matches no row: raised by `step`, for no vector (30_encoding.md R75). Safe. -/
  | noSelection
  deriving DecidableEq, Repr

/-- The fast path after reset (R162, R270). -/
def FastRegs.reset : FastRegs where
  phase := .blank
  pos := 0
  dwell := 0
  cyc := 0
  digEn := 0
  seg := 0

/-- The slow path after reset (R202, R270). -/
def SlowRegs.reset (c : Config) : SlowRegs where
  astate := .idle
  wcnt := 0
  raw := 0
  meas := 0
  ring := List.replicate c.window 0
  idx := 0
  sum := 0
  seedCnt := 0
  bank0 := List.replicate c.digits 0
  bank1 := List.replicate c.digits 0
  act := false
  dispValid := false
  pubVal := 0
  acqFault := false

/-- The state after the reset edge of a core with configuration `c`, whose environment presents the vectors `stim` in
the cycles that follow (R270, R271). -/
def State.resetWith (c : Config) (stim : List InVec) : State where
  cfg := c
  fast := FastRegs.reset
  acqPend := false
  slow := SlowRegs.reset c
  stim := stim
  drawIdx := 0
  fnOut := none

/-- The machine right after reset (70_reset_and_hazards.md R270). The configuration is the test configuration (log 1);
nothing is fixed of the environment (log 2). -/
def State.reset : State := State.resetWith Config.test []

end Sys2Proof.Machine
end

