-- ==== Sys2Proof/Machine/Inputs.lean ====
section
/-! DEFINITION. The input vector of the present cycle, its fields (30_encoding.md R80), and the stimulus notation
(30_encoding.md R81). -/

namespace Sys2Proof.Machine

/-- `rst`: IN[12] (R80). -/
def inRst (v : InVec) : Bool := v.getLsbD 12
/-- `tick_i`: IN[11] (R80). -/
def inTick (v : InVec) : Bool := v.getLsbD 11
/-- `adc_done_i`: IN[10] (R80). -/
def inDone (v : InVec) : Bool := v.getLsbD 10
/-- `adc_data_i`: IN[9:0] (R80). -/
def inData (v : InVec) : RawSample := v.extractLsb' 0 10

/-- The input vector assembled from its fields (R80). -/
def packInput (rst tick done : Bool) (data : RawSample) : InVec :=
  BitVec.ofBool rst ++ BitVec.ofBool tick ++ BitVec.ofBool done ++ data

/-- The input vector of the present cycle: the first of those fixed, or else a free draw (00_scope.md R8; log 2). -/
def sampledInput (s : State) : InVec :=
  match s.stim with
  | v :: _ => v
  | [] => Config.envInput s.drawIdx

/-- `rst` as sampled at this edge. -/
def rstIn (s : State) : Bool := inRst (sampledInput s)
/-- `tick_i` as sampled at this edge. -/
def tickIn (s : State) : Bool := inTick (sampledInput s)
/-- `adc_done_i` as sampled at this edge. -/
def doneIn (s : State) : Bool := inDone (sampledInput s)
/-- `adc_data_i` as sampled at this edge. -/
def dataIn (s : State) : RawSample := inData (sampledInput s)

/-- The value of a pseudo-vector (30_encoding.md R81). -/
def expandVector : StimVector → InVec
  | .hex v => v
  | .rst => 0x1000
  | .nop => 0x0000
  | .tick => 0x0800
  | .done x => 0x0400 ||| x.setWidth 13
  | .tickDone x => 0x0C00 ||| x.setWidth 13
  | .data x => x.setWidth 13

/-- The vectors of a stimulus program, one per cycle: `count * vector` repeats one vector for `count` cycles (R81). -/
def expandProgram : List StimLine → List InVec
  | [] => []
  | l :: ls => List.replicate l.count (expandVector l.vector) ++ expandProgram ls

/-- Places a stimulus program before a core in ANY state `s`: the register contents before the first reset edge are
unspecified (70_reset_and_hazards.md R272), so they are whatever `s` holds. A program that does not begin by asserting
`rst` is ill-formed and refused (R81, R272; log 11). -/
def loadProgram (p : List StimLine) (s : State) : Host.Outcome State Fault Refusal :=
  if stimulusWf (expandProgram p) then .next { s with stim := expandProgram p }
  else .refused .programWithoutReset

end Sys2Proof.Machine
end

