-- ==== Sys2Proof/Machine/Flags.lean ====
section
/-! DEFINITION. The derived signals of 10_state.md R43, the status flags (R49), and the outputs (R45). -/

namespace Sys2Proof.Machine

/-- `seeding = (seed_cnt < N)` (R43). -/
def seeding (s : State) : Bool := decide (s.slow.seedCnt < s.cfg.window)

/-- `seeded = (seed_cnt = N)` (R43). -/
def seeded (s : State) : Bool := decide (s.slow.seedCnt = s.cfg.window)

/-- `go = seeding or (acq_pend = 1)` (R43). -/
def go (s : State) : Bool := seeding s || s.acqPend

/-- `busy = (astate != 0)` (R43). -/
def busy (s : State) : Bool := decide (s.slow.astate ≠ .idle)

/-- `len`: the length of the current phase in ticks (R43). -/
def phaseLen (s : State) : Nat :=
  match s.fast.phase with
  | .lit => s.cfg.onTicks
  | .blank => s.cfg.blankTicks

/-- `last = (dwell + 1 = len)` (R43). -/
def last (s : State) : Bool := decide (s.fast.dwell + 1 = phaseLen s)

/-- `tmo = (ADC_TIMEOUT > 0) and (wcnt = ADC_TIMEOUT - 1)` (R43). -/
def tmo (s : State) : Bool := decide (0 < s.cfg.adcTimeout ∧ s.slow.wcnt = s.cfg.adcTimeout - 1)

/-- `seed_last = (seed_cnt + 1 = N)` (R43). -/
def seedLast (s : State) : Bool := decide (s.slow.seedCnt + 1 = s.cfg.window)

/-- `status_o = {acq_fault, busy, seeded, disp_valid}`, bit 0 `disp_valid` (R45). -/
def statusOut (s : State) : BitVec 4 :=
  BitVec.ofBool s.slow.acqFault ++ BitVec.ofBool (busy s) ++ BitVec.ofBool (seeded s) ++ BitVec.ofBool s.slow.dispValid

/-- The output ports (R45). -/
structure Outputs where
  /-- `dig_en_o`. -/
  digEnO : DigitLines
  /-- `seg_o`. -/
  segO : SegByte
  /-- `adc_start_o`. -/
  adcStartO : Bool
  /-- `adc_chan_o`, `CHW` = 3 bits. -/
  adcChanO : BitVec 3
  /-- `status_o`. -/
  statusO : BitVec 4
  /-- `value_o`, 14 bits. -/
  valueO : BitVec 14
  deriving DecidableEq, Repr

/-- The outputs, each a Moore function of the registers (R45, 70_reset_and_hazards.md R284). -/
def outputs (s : State) : Outputs where
  digEnO := s.fast.digEn
  segO := s.fast.seg
  adcStartO := decide (s.slow.astate = .start)
  adcChanO := BitVec.ofNat 3 s.cfg.adcChannel
  statusO := statusOut s
  valueO := BitVec.ofNat 14 s.slow.pubVal

end Sys2Proof.Machine
end

