-- ==== Sys2Proof/Machine/Operands.lean ====
section
/-! DEFINITION. The operand forms: the select vectors assembled from the pre-edge state and the inputs (30_encoding.md
R71, R73), what each agent decodes from its own, and the array entries that the operations read by index (20_memory.md
R50). -/

namespace Sys2Proof.Machine

/-- The code of a phase, 1 bit (10_state.md R22). -/
def phaseBit : Phase → Bool
  | .blank => false
  | .lit => true

/-- The code of a slow-path state, 3 bits (10_state.md R29). -/
def astateCode : AState → BitVec 3
  | .idle => 0
  | .start => 1
  | .wait => 2
  | .scale => 3
  | .filter => 4
  | .build => 5
  | .publish => 6
  | .reserved => 7

/-- The slow-path state of a code (10_state.md R29). -/
def astateOfCode (b : BitVec 3) : AState :=
  if b = 0 then .idle else if b = 1 then .start else if b = 2 then .wait else if b = 3 then .scale
  else if b = 4 then .filter else if b = 5 then .build else if b = 6 then .publish else .reserved

/-- `SSEL` from its fields, bit 4 down to bit 0 (R71). -/
def packSsel (rst dispValid tick phase last : Bool) : SselWord :=
  BitVec.ofBool rst ++ BitVec.ofBool dispValid ++ BitVec.ofBool tick ++ BitVec.ofBool phase ++ BitVec.ofBool last

/-- `ASEL` from its fields, bit 8 down to bit 0 (R73). -/
def packAsel (rst : Bool) (astate : BitVec 3) (go done tmo seeding seedLast : Bool) : AselWord :=
  BitVec.ofBool rst ++ astate ++ BitVec.ofBool go ++ BitVec.ofBool done ++ BitVec.ofBool tmo ++
    BitVec.ofBool seeding ++ BitVec.ofBool seedLast

/-- The fast path's select vector (R71). -/
def ssel (s : State) : SselWord :=
  packSsel (rstIn s) s.slow.dispValid (tickIn s) (phaseBit s.fast.phase) (last s)

/-- The slow path's select vector (R73). -/
def asel (s : State) : AselWord :=
  packAsel (rstIn s) (astateCode s.slow.astate) (go s) (doneIn s) (tmo s) (seeding s) (seedLast s)

/-- The operation the fast path performs at this edge (R72). -/
def fastOp (s : State) : Option Instr := decodeSsel (ssel s)

/-- The operation the slow path performs at this edge (R74). -/
def slowOp (s : State) : Option Instr := decodeAsel (asel s)

/-- `ring[i]`. An index outside the ring, which no reachable state has, reads 0 (20_memory.md R52; log 9). -/
def ringAt (r : SlowRegs) (i : Nat) : Nat := r.ring.getD i 0

/-- `bank[b]` (10_state.md R37). -/
def bankOf (r : SlowRegs) (b : Bool) : List SegByte := if b then r.bank1 else r.bank0

/-- `bank[b][i]`. An index outside the bank, which no reachable state has, reads 0 (20_memory.md R52; log 9). -/
def bankAt (r : SlowRegs) (b : Bool) (i : Nat) : SegByte := (bankOf r b).getD i 0

/-- `SEG_TABLE[d]` for a digit `d` (10_state.md R42). -/
def segTableAt (c : Config) (d : Nat) : SegPattern := c.segTable.getD d 0

end Sys2Proof.Machine
end

