-- ==== Sys2Proof/Machine/Ops.lean ====
section
/-! DEFINITION. The shared operations: the five combinational functions, the datapath steps FILTER_WRITE and CADENCE that
have no row of their own, the storage writes, and the commit of one clock edge. The core takes no exception and returns
from none (60_exceptions.md R240, R249), so there is no such operation here (log 15). -/

namespace Sys2Proof.Machine

/-- `SEG_ENCODE(d, dp) = zext_8(SEG_TABLE[d mod 10]) | (dp << 7)` (40_segment_encoder_lut.md R102). -/
def segEncode (c : Config) (d : Digit) (dp : Bool) : SegByte :=
  (segTableAt c (d.toNat % 10)).setWidth 8 ||| ((BitVec.ofBool dp).setWidth 8 <<< 7)

/-- `q`, the scaled sample before the clamp, exact (42_fixed_point_scaler_and_limiter.md R141, R145). -/
def scaleQuotient (c : Config) (raw : RawSample) : Nat :=
  (raw.toNat * c.refScale * 10 + c.roundHalf) / c.fullScale

/-- `SCALE_CLAMP(raw) = min(q, 9999)` (R141). -/
def scaleClamp (c : Config) (raw : RawSample) : Nat := min (scaleQuotient c raw) measMax

/-- `AVERAGE(sum) = sum div N` (41_moving_average_filter.md R126). -/
def average (c : Config) (sum : Nat) : Nat := sum / c.window

/-- `DEC_SPLIT(v)[i] = (v div 10^i) mod 10` for `i` in `0 .. D-1` (42_fixed_point_scaler_and_limiter.md R146). -/
def decSplit (c : Config) (v : Nat) : List Nat := (List.range c.digits).map (fun i => v / 10 ^ i % 10)

/-- `msd`: the largest index whose digit is not 0, or 0 if there is none (44_acquisition_and_digit_buffer.md R216). -/
def msd : List Nat → Nat
  | [] => 0
  | _ :: ds => if ds.any (fun d => d != 0) then msd ds + 1 else 0

/-- `keep`: the highest digit index that leading-zero blanking never darkens (R216). -/
def keepDigit (c : Config) (ds : List Nat) : Nat :=
  match c.dpPos with
  | none => msd ds
  | some p => max (msd ds) p

/-- `P[i]` of DIGIT_PATTERNS, the byte of digit index `i` (R216, R217). -/
def digitPattern (c : Config) (ds : List Nat) (i : Nat) : SegByte :=
  if c.blankLz = true ∧ keepDigit c ds < i then 0
  else segEncode c (BitVec.ofNat 4 (ds.getD i 0)) (decide (c.dpPos = some i))

/-- `DIGIT_PATTERNS(v)`: `D` bytes, index 0 for the least significant digit (R216). -/
def digitPatterns (c : Config) (v : Nat) : List SegByte :=
  (List.range c.digits).map (digitPattern c (decSplit c v))

/-- `ring[i] <- m` (20_memory.md R50). -/
def ringWrite (r : SlowRegs) (i m : Nat) : SlowRegs := { r with ring := r.ring.set i m }

/-- Writes all `D` entries of one bank at one edge (20_memory.md R56). -/
def bankWrite (r : SlowRegs) (b : Bool) (ps : List SegByte) : SlowRegs :=
  if b then { r with bank1 := ps } else { r with bank0 := ps }

/-- `FILTER_WRITE(m)`: evict the oldest entry, insert `m`, advance `idx` (41_moving_average_filter.md R122). -/
def filterWrite (c : Config) (r : SlowRegs) (m : Nat) : SlowRegs :=
  { ringWrite r r.idx m with
    sum := r.sum - ringAt r r.idx + m
    idx := (r.idx + 1) % c.window }

/-- `onehot_D(p)` (00_scope.md R14). -/
def onehot (p : Nat) : DigitLines := (1 : DigitLines) <<< p

/-- CADENCE happens at an edge that leaves Show(D-1) (43_refresh_scheduler.md R167, R168). -/
def cycleEnds (s : State) : Bool := decide (s.fast.pos = s.cfg.digits - 1)

/-- CADENCE reaches its period: `cyc = K - 1` (R168). -/
def cadenceEnds (s : State) : Bool := decide (s.fast.cyc = s.cfg.cadence - 1)

/-- The value that a Show-to-Blank edge gives `cyc` (R168). -/
def cycAfterShow (s : State) : Nat :=
  if cycleEnds s then (if cadenceEnds s then 0 else s.fast.cyc + 1) else s.fast.cyc

/-- The request `sched_set` of a Show-to-Blank edge (R168, R169). -/
def requestAfterShow (s : State) : Bool := cycleEnds s && cadenceEnds s

/-- `acq_pend <- sched_set or (acq_pend and not acq_clr)` (44_acquisition_and_digit_buffer.md R221). -/
def pendNext (pend schedSet acqClr : Bool) : Bool := schedSet || (pend && !acqClr)

/-- `sched_set` of the fast path's operation: 1 only in a SCH_SHOW_TO_BLANK whose CADENCE reaches its period (R169). -/
def schedSet (f : Instr) (s : State) : Bool := decide (f = .schShowToBlank) && requestAfterShow s

/-- `acq_clr` of the slow path's operation: 1 only in ACQ_LAUNCH (R221). -/
def acqClr (a : Instr) : Bool := decide (a = .acqLaunch)

/-- The state after the edge: the fast path's registers as its operation left them, the slow path's as its own did, and
`acq_pend` combined (00_scope.md R13, 20_memory.md R58, R221). The present cycle's input vector is used up. -/
def commitEdge (s : State) (fast : FastRegs) (slow : SlowRegs) (set clr : Bool) : State where
  cfg := s.cfg
  fast := fast
  acqPend := if rstIn s then false else pendNext s.acqPend set clr
  slow := slow
  stim := s.stim.tail
  drawIdx := s.drawIdx + 1
  fnOut := s.fnOut

/-- One clock edge from the outcomes of the two selected operations `f` and `a`, each executed on the pre-edge state `s`
(log 5). An outcome that is not a next state is passed on, the fast path's first. -/
def joinEdge (s : State) (f a : Instr) :
    Host.Outcome State Fault Refusal → Host.Outcome State Fault Refusal → Host.Outcome State Fault Refusal
  | .next tf, .next ta => .next (commitEdge s tf.fast ta.slow (schedSet f s) (acqClr a))
  | .next _, .fault e => .fault e
  | .next _, .refused e => .refused e
  | .fault e, _ => .fault e
  | .refused e, _ => .refused e

/-- Replaces the present cycle's input vector. -/
def withInput (s : State) (v : InVec) : State := { s with stim := v :: s.stim.tail }

/-- Makes `last` come out as asked for the current phase: `dwell` is set to the phase's last tick or to its first. A phase
of one tick has no tick that is not the last; its length is then made 2 (log 3). -/
def placeLast (s : State) (b : Bool) : State :=
  if b then { s with fast := { s.fast with dwell := phaseLen s - 1 } }
  else if phaseLen s = 1 then
    { s with
      cfg := { s.cfg with onTicks := max 2 s.cfg.onTicks, blankTicks := max 2 s.cfg.blankTicks }
      fast := { s.fast with dwell := 0 } }
  else { s with fast := { s.fast with dwell := 0 } }

/-- Makes the next edge's `SSEL` the word `w` (30_encoding.md R71; log 3). -/
def placeSsel (s : State) (w : SselWord) : State :=
  let s1 := withInput s (packInput (w.getLsbD 4) (w.getLsbD 2) false 0)
  let s2 : State :=
    { s1 with
      fast := { s1.fast with phase := if w.getLsbD 1 then .lit else .blank }
      slow := { s1.slow with dispValid := w.getLsbD 3 } }
  placeLast s2 (w.getLsbD 0)

/-- Makes `tmo` come out as asked. ADC_TIMEOUT = 0 has no timeout and ADC_TIMEOUT = 1 no wait without one; the parameter is
then made 1 or 2 (log 3). -/
def placeTmo (s : State) (b : Bool) : State :=
  if b then
    { s with
      cfg := { s.cfg with adcTimeout := max 1 s.cfg.adcTimeout }
      slow := { s.slow with wcnt := s.cfg.adcTimeout - 1 } }
  else if s.cfg.adcTimeout = 1 then
    { s with cfg := { s.cfg with adcTimeout := 2 }, slow := { s.slow with wcnt := 0 } }
  else { s with slow := { s.slow with wcnt := 0 } }

/-- Makes `seeding` and `seed_last` come out as asked. A window of one sample has no seed before its last; `N` is then
made 2, with a second ring entry (log 3). -/
def placeSeed (s : State) (seedingBit seedLastBit : Bool) : State :=
  if seedingBit = false then { s with slow := { s.slow with seedCnt := s.cfg.window } }
  else if seedLastBit then { s with slow := { s.slow with seedCnt := s.cfg.window - 1 } }
  else if s.cfg.window = 1 then
    { s with
      cfg := { s.cfg with window := 2 }
      slow := { s.slow with seedCnt := 0, ring := s.slow.ring ++ [0] } }
  else { s with slow := { s.slow with seedCnt := 0 } }

/-- Makes the next edge's `ASEL` select what the word `w` selects (30_encoding.md R73; log 3). `go` is `seeding or
acq_pend`, so the bits `seeding` = 1 and `go` = 0 do not occur together: in IDLE, where only `go` counts, `seeding` follows
it, and elsewhere `go` follows `seeding`. -/
def placeAsel (s : State) (w : AselWord) : State :=
  let code := w.extractLsb' 5 3
  let goBit := w.getLsbD 4
  let seedBit := if code = 0 then w.getLsbD 1 && goBit else w.getLsbD 1
  let s1 := withInput s (packInput (w.getLsbD 8) false (w.getLsbD 3) 0)
  let s2 : State := { s1 with acqPend := goBit, slow := { s1.slow with astate := astateOfCode code } }
  placeSeed (placeTmo s2 (w.getLsbD 2)) seedBit (w.getLsbD 0)

/-- The state in which the next step runs the table word `w` of `nbits` bits, read as `decodeTableWord` reads it. -/
def placeTableWord (s : State) (nbits w : Nat) : State :=
  if nbits ≤ 8 then placeSsel s (BitVec.ofNat 5 w) else placeAsel s (BitVec.ofNat 9 w)

end Sys2Proof.Machine
end

