-- ==== Sys2Proof/Machine/Acquisition.lean ====
section
/-! DEFINITION. Meanings of the acquisition sequencer and the DigitBuffer (44_acquisition_and_digit_buffer.md). -/

namespace Sys2Proof.Machine

/-- ACQ_RESET (R202). -/
def execAcqReset (s : State) : Host.Outcome State Fault Refusal :=
  .next { s with slow := SlowRegs.reset s.cfg, acqPend := false }

/-- ACQ_IDLE (R203): no register written. -/
def execAcqIdle (s : State) : Host.Outcome State Fault Refusal := .next s

/-- ACQ_LAUNCH (R204): consumes the pending request (R221). -/
def execAcqLaunch (s : State) : Host.Outcome State Fault Refusal :=
  .next { s with slow := { s.slow with astate := .start }, acqPend := pendNext s.acqPend false true }

/-- ACQ_START (R205). -/
def execAcqStart (s : State) : Host.Outcome State Fault Refusal :=
  .next { s with slow := { s.slow with wcnt := 0, astate := .wait } }

/-- ACQ_POLL (R206): the wait counter counts only when there is a timeout. -/
def execAcqPoll (s : State) : Host.Outcome State Fault Refusal :=
  .next { s with
    slow := { s.slow with wcnt := if 0 < s.cfg.adcTimeout then s.slow.wcnt + 1 else s.slow.wcnt } }

/-- ACQ_CAPTURE (R207). -/
def execAcqCapture (s : State) : Host.Outcome State Fault Refusal :=
  .next { s with slow := { s.slow with raw := dataIn s, acqFault := false, astate := .scale } }

/-- ACQ_TIMEOUT (R208). -/
def execAcqTimeout (s : State) : Host.Outcome State Fault Refusal :=
  .next { s with slow := { s.slow with acqFault := true, wcnt := 0, astate := .idle } }

/-- ACQ_RESERVED_STATE (R209). -/
def execAcqReservedState (s : State) : Host.Outcome State Fault Refusal :=
  .next { s with slow := { s.slow with astate := .idle } }

/-- DIGIT_PATTERNS (R216): writes no register; its result is the `D` segment bytes (log 4). -/
def execDigitPatterns (v : Value) (s : State) : Host.Outcome State Fault Refusal :=
  .next { s with fnOut := some (.patterns (digitPatterns s.cfg v.toNat)) }

/-- ACQ_BUILD (R218): writes the whole shadow bank. -/
def execAcqBuild (s : State) : Host.Outcome State Fault Refusal :=
  .next { s with
    slow := { bankWrite s.slow (!s.slow.act) (digitPatterns s.cfg (average s.cfg s.slow.sum)) with
      astate := .publish } }

/-- ACQ_PUBLISH (R219): the one flip of `act`. -/
def execAcqPublish (s : State) : Host.Outcome State Fault Refusal :=
  .next { s with
    slow := { s.slow with
      act := !s.slow.act
      dispValid := true
      pubVal := average s.cfg s.slow.sum
      astate := .idle } }

end Sys2Proof.Machine
end

