-- ==== Sys2Proof/Machine/Encoder.lean ====
section
/-! DEFINITION. Meanings of the segment_encoder_lut family (40_segment_encoder_lut.md). -/

namespace Sys2Proof.Machine

/-- SEG_ENCODE (R102): writes no register; its result is the encoder's output (log 4). -/
def execSegEncode (d : Digit) (dp : Bool) (s : State) : Host.Outcome State Fault Refusal :=
  .next { s with fnOut := some (.pattern (segEncode s.cfg d dp)) }

end Sys2Proof.Machine
end

