-- ==== Sys2Proof/Machine/Filter.lean ====
section
/-! DEFINITION. Meanings of the moving_average_filter family (41_moving_average_filter.md). -/

namespace Sys2Proof.Machine

/-- ACQ_SEED (R123). -/
def execAcqSeed (s : State) : Host.Outcome State Fault Refusal :=
  .next { s with
    slow := { filterWrite s.cfg s.slow s.slow.meas with
      seedCnt := s.slow.seedCnt + 1
      astate := .idle } }

/-- ACQ_SEED_LAST (R124). -/
def execAcqSeedLast (s : State) : Host.Outcome State Fault Refusal :=
  .next { s with
    slow := { filterWrite s.cfg s.slow s.slow.meas with
      seedCnt := s.cfg.window
      astate := .build } }

/-- ACQ_UPDATE (R125). -/
def execAcqUpdate (s : State) : Host.Outcome State Fault Refusal :=
  .next { s with slow := { filterWrite s.cfg s.slow s.slow.meas with astate := .build } }

/-- AVERAGE (R126): writes no register; its result is the filter's output (log 4). -/
def execAverage (sum : Nat) (s : State) : Host.Outcome State Fault Refusal :=
  .next { s with fnOut := some (.value (average s.cfg sum)) }

end Sys2Proof.Machine
end

