-- ==== Sys2Proof/Machine/Scaler.lean ====
section
/-! DEFINITION. Meanings of the fixed_point_scaler_and_limiter family (42_fixed_point_scaler_and_limiter.md). -/

namespace Sys2Proof.Machine

/-- SCALE_CLAMP (R141): writes no register; its result is the limiter's output (log 4). -/
def execScaleClamp (raw : RawSample) (s : State) : Host.Outcome State Fault Refusal :=
  .next { s with fnOut := some (.value (scaleClamp s.cfg raw)) }

/-- ACQ_SCALE (R144). -/
def execAcqScale (s : State) : Host.Outcome State Fault Refusal :=
  .next { s with slow := { s.slow with meas := scaleClamp s.cfg s.slow.raw, astate := .filter } }

/-- DEC_SPLIT (R146): writes no register; its result is the `D` digits (log 4). -/
def execDecSplit (v : Value) (s : State) : Host.Outcome State Fault Refusal :=
  .next { s with fnOut := some (.digits (decSplit s.cfg v.toNat)) }

end Sys2Proof.Machine
end

