-- ==== Sys2Proof/Machine/Scheduler.lean ====
section
/-! DEFINITION. Meanings of the refresh_scheduler family (43_refresh_scheduler.md). -/

namespace Sys2Proof.Machine

/-- SCH_RESET (R162). `acq_pend` is ACQ_RESET's to reset. -/
def execSchReset (s : State) : Host.Outcome State Fault Refusal :=
  .next { s with fast := FastRegs.reset }

/-- SCH_WAIT_VALID (R163): no register written; a tick is lost. -/
def execSchWaitValid (s : State) : Host.Outcome State Fault Refusal := .next s

/-- SCH_NO_TICK (R164): no register written. -/
def execSchNoTick (s : State) : Host.Outcome State Fault Refusal := .next s

/-- SCH_DWELL (R165). -/
def execSchDwell (s : State) : Host.Outcome State Fault Refusal :=
  .next { s with fast := { s.fast with dwell := s.fast.dwell + 1 } }

/-- SCH_BLANK_TO_SHOW (R166): the entry is read from the bank active before the edge. -/
def execSchBlankToShow (s : State) : Host.Outcome State Fault Refusal :=
  .next { s with
    fast := { s.fast with
      seg := bankAt s.slow s.slow.act s.fast.pos
      digEn := onehot s.fast.pos
      phase := .lit
      dwell := 0 } }

/-- SCH_SHOW_TO_BLANK (R167), with CADENCE (R168) and its request (R169). -/
def execSchShowToBlank (s : State) : Host.Outcome State Fault Refusal :=
  .next { s with
    fast := { s.fast with
      digEn := 0
      seg := 0
      phase := .blank
      dwell := 0
      pos := (s.fast.pos + 1) % s.cfg.digits
      cyc := cycAfterShow s }
    acqPend := pendNext s.acqPend (requestAfterShow s) false }

end Sys2Proof.Machine
end

