-- ==== Sys2Proof/Machine/Dispatch.lean ====
section
/-! DEFINITION. What each operation does on its own: one arm per row of spec/opcode_table.json. -/

namespace Sys2Proof.Machine

def exec (i : Instr) (s : State) : Host.Outcome State Fault Refusal :=
  match i with
  | .segEncode d dp => Sys2Proof.Machine.execSegEncode d dp s
  | .acqSeed => Sys2Proof.Machine.execAcqSeed s
  | .acqSeedLast => Sys2Proof.Machine.execAcqSeedLast s
  | .acqUpdate => Sys2Proof.Machine.execAcqUpdate s
  | .average sum => Sys2Proof.Machine.execAverage sum s
  | .scaleClamp raw => Sys2Proof.Machine.execScaleClamp raw s
  | .acqScale => Sys2Proof.Machine.execAcqScale s
  | .decSplit v => Sys2Proof.Machine.execDecSplit v s
  | .schReset => Sys2Proof.Machine.execSchReset s
  | .schWaitValid => Sys2Proof.Machine.execSchWaitValid s
  | .schNoTick => Sys2Proof.Machine.execSchNoTick s
  | .schDwell => Sys2Proof.Machine.execSchDwell s
  | .schBlankToShow => Sys2Proof.Machine.execSchBlankToShow s
  | .schShowToBlank => Sys2Proof.Machine.execSchShowToBlank s
  | .acqReset => Sys2Proof.Machine.execAcqReset s
  | .acqIdle => Sys2Proof.Machine.execAcqIdle s
  | .acqLaunch => Sys2Proof.Machine.execAcqLaunch s
  | .acqStart => Sys2Proof.Machine.execAcqStart s
  | .acqPoll => Sys2Proof.Machine.execAcqPoll s
  | .acqCapture => Sys2Proof.Machine.execAcqCapture s
  | .acqTimeout => Sys2Proof.Machine.execAcqTimeout s
  | .acqReservedState => Sys2Proof.Machine.execAcqReservedState s
  | .digitPatterns v => Sys2Proof.Machine.execDigitPatterns v s
  | .acqBuild => Sys2Proof.Machine.execAcqBuild s
  | .acqPublish => Sys2Proof.Machine.execAcqPublish s

end Sys2Proof.Machine
end

