-- ==== Sys2Proof/Machine/Step.lean ====
section
/-! DEFINITION. One rising clock edge (00_scope.md R7, R13): both agents perform the operation that their select vectors
choose, from the same pre-edge state. -/

namespace Sys2Proof.Machine

/-- One clock edge. An illegal configuration is refused by name and never stepped (R11). -/
def step (s : State) : Host.Outcome State Fault Refusal :=
  match s.cfg.check with
  | some name => .refused (.illegalConfig name)
  | none =>
    match fastOp s, slowOp s with
    | some f, some a => joinEdge s f a (exec f s) (exec a s)
    | _, _ => .refused .noSelection

/-- `s` prepared so that the next step runs the table word `w` of `nbits` bits. The core fetches nothing: an operation is
selected by registers and inputs, so those are what is set (log 3). -/
def State.withFetchWord (s : State) (nbits w : Nat) : State := placeTableWord s nbits w

end Sys2Proof.Machine
end

