-- ==== Sys2Proof/Safety.lean ====
section
/-! DEFINITION. The terms in which claims speak of a run: the invariants of 10_state.md R46 and R47, what the DigitBuffer
holds (44_acquisition_and_digit_buffer.md R222), runs of several edges, and the filter window in order of age. -/

namespace Sys2Proof.Machine

/-- The number of enabled digit lines: `popcount(dig_en)` of R47. -/
def popcount (b : DigitLines) : Nat := ((List.range 8).filter (fun p => b.getLsbD p)).length

/-- The range invariants of 10_state.md R46. `len` there is `phaseLen`. -/
structure RangeInv (s : State) : Prop where
  pos_lt : s.fast.pos < s.cfg.digits
  dwell_lt : s.fast.dwell < phaseLen s
  cyc_lt : s.fast.cyc < s.cfg.cadence
  idx_lt : s.slow.idx < s.cfg.window
  seedCnt_le : s.slow.seedCnt ≤ s.cfg.window
  astate_le_six : s.slow.astate ≠ .reserved
  raw_le : s.slow.raw.toNat ≤ 1023
  meas_le : s.slow.meas ≤ 9999
  ring_le : ∀ x ∈ s.slow.ring, x ≤ 9999
  sum_le : s.slow.sum ≤ s.cfg.window * 9999
  pubVal_le : s.slow.pubVal ≤ 9999
  wcnt_lt : 0 < s.cfg.adcTimeout → s.slow.wcnt < s.cfg.adcTimeout
  wcnt_zero : s.cfg.adcTimeout = 0 → s.slow.wcnt = 0

/-- The structural invariants of 10_state.md R47. -/
structure StructInv (s : State) : Prop where
  sum_eq : s.slow.sum = s.slow.ring.sum
  blank_dark : s.fast.phase = .blank → s.fast.digEn = 0 ∧ s.fast.seg = 0
  lit_onehot : s.fast.phase = .lit → s.fast.digEn = onehot s.fast.pos
  one_line : popcount s.fast.digEn ≤ 1
  seeding_fills : s.slow.seedCnt < s.cfg.window →
    s.slow.idx = s.slow.seedCnt ∧ (∀ j, s.slow.seedCnt ≤ j → ringAt s.slow j = 0) ∧ s.slow.dispValid = false
  invalid_still : s.slow.dispValid = false →
    s.fast.phase = .blank ∧ s.fast.pos = 0 ∧ s.fast.dwell = 0 ∧ s.fast.cyc = 0 ∧ s.acqPend = false
  valid_seeded : s.slow.dispValid = true → s.slow.seedCnt = s.cfg.window

/-- The sizes of the arrays (10_state.md R33, R37), and that the sequencer is in BUILD or PUBLISH only when the window is
full (44_acquisition_and_digit_buffer.md R200). -/
structure ShapeInv (s : State) : Prop where
  ring_length : s.slow.ring.length = s.cfg.window
  bank0_length : s.slow.bank0.length = s.cfg.digits
  bank1_length : s.slow.bank1.length = s.cfg.digits
  build_seeded : s.slow.astate = .build ∨ s.slow.astate = .publish → s.slow.seedCnt = s.cfg.window

/-- The invariant of the core: a legal configuration, and R46 and R47. -/
structure CoreInv (s : State) : Prop where
  legal : s.cfg.Legal
  shape : ShapeInv s
  range : RangeInv s
  struct : StructInv s

/-- What the banks hold (44_acquisition_and_digit_buffer.md R222, R218): the displayed one the patterns of the published
value, and in PUBLISH the shadow one those of the average about to be published. -/
structure DisplayInv (s : State) : Prop where
  shown : s.slow.dispValid = true → bankOf s.slow s.slow.act = digitPatterns s.cfg s.slow.pubVal
  built : s.slow.astate = .publish →
    bankOf s.slow (!s.slow.act) = digitPatterns s.cfg (average s.cfg s.slow.sum)

/-- `n` clock edges, one after another. -/
def runEdges : Nat → State → Host.Outcome State Fault Refusal
  | 0, s => .next s
  | n + 1, s =>
    match step s with
    | .next t => runEdges n t
    | .fault e => .fault e
    | .refused e => .refused e

/-- One row of a trace (30_encoding.md R82): the cycle's input vector, the operation each agent performs at the edge that
ends it, and the state and the outputs after that edge. -/
structure TraceRow where
  input : InVec
  fast : Option Instr
  slow : Option Instr
  regs : State
  out : Outputs
  deriving DecidableEq, Repr

/-- The trace of the next `n` cycles; it ends where a step stops. -/
def trace : Nat → State → List TraceRow
  | 0, _ => []
  | n + 1, s =>
    match step s with
    | .next t => ⟨sampledInput s, fastOp s, slowOp s, t, outputs t⟩ :: trace n t
    | _ => []

/-- The number of ticks in a list of input vectors (43_refresh_scheduler.md R174). -/
def tickCount (vs : List InVec) : Nat := (vs.filter inTick).length

/-- The filter window, oldest entry first: `idx` names the oldest (10_state.md R34, 41_moving_average_filter.md R129). -/
def windowByAge (r : SlowRegs) : List Nat := r.ring.drop r.idx ++ r.ring.take r.idx

/-- The scaled measurements that seeding takes from the input vectors of the cycles after reset, when the converter is
done in the first WAIT cycle of each acquisition: acquisition `j` captures in the vector of index `5j + 2`
(44_acquisition_and_digit_buffer.md R212). -/
def seedSamples (c : Config) (vs : List InVec) : List Nat :=
  (List.range c.window).map (fun j => scaleClamp c (inData (vs.getD (5 * j + 2) 0)))

end Sys2Proof.Machine
end

