-- ==== Sys2Proof/Certificates/Slice0/Obligations.lean ====
section
/-! DEFINITION. The statements for the provers. Operations are stated in the spec's own formulas, not through the
helpers the meanings call. Statements quantify over every state, so over every configuration and every input; no
statement rests on the configuration that State.reset holds (log 1) or on the value of a free draw (log 2). -/

open Sys2Proof Sys2Proof.Machine

/-! ### The fast path's operations: when each is selected, and all it does -/

/-- 43_refresh_scheduler.md R162. Frame: every register but the six of the fast path. -/
def Obligations.SchResetClearsFastPath : Prop :=
  (∀ s : State, fastOp s = some .schReset ↔ rstIn s = true) ∧
  ∀ s : State, exec .schReset s =
    .next { s with fast := { phase := .blank, pos := 0, dwell := 0, cyc := 0, digEn := 0, seg := 0 } }

/-- 43_refresh_scheduler.md R163, R164: no register is written. -/
def Obligations.SchHoldsWithoutDisplayOrTick : Prop :=
  (∀ s : State, fastOp s = some .schWaitValid ↔ rstIn s = false ∧ s.slow.dispValid = false) ∧
  (∀ s : State, fastOp s = some .schNoTick ↔ rstIn s = false ∧ s.slow.dispValid = true ∧ tickIn s = false) ∧
  (∀ s : State, exec .schWaitValid s = .next s) ∧
  ∀ s : State, exec .schNoTick s = .next s

/-- 43_refresh_scheduler.md R165. Frame: every register but `dwell`. -/
def Obligations.SchDwellCountsTick : Prop :=
  (∀ s : State, CoreInv s → (fastOp s = some .schDwell ↔
    rstIn s = false ∧ s.slow.dispValid = true ∧ tickIn s = true ∧
      s.fast.dwell + 1 < (if s.fast.phase = .lit then s.cfg.onTicks else s.cfg.blankTicks))) ∧
  ∀ s : State, exec .schDwell s = .next { s with fast := { s.fast with dwell := s.fast.dwell + 1 } }

/-- 43_refresh_scheduler.md R166, where `pos` names an entry of the bank, as it does in every state that meets the invariants
(10_state.md R46). Frame: every register but `seg`, `dig_en`, `phase`, `dwell`. -/
def Obligations.SchBlankToShowDrivesDigit : Prop :=
  (∀ s : State, fastOp s = some .schBlankToShow ↔
    rstIn s = false ∧ s.slow.dispValid = true ∧ tickIn s = true ∧ s.fast.phase = .blank ∧
      s.fast.dwell + 1 = s.cfg.blankTicks) ∧
  ∀ s : State, s.fast.pos < 8 → s.fast.pos < (if s.slow.act then s.slow.bank1 else s.slow.bank0).length →
    exec .schBlankToShow s = .next { s with
    fast := { s.fast with
      seg := (if s.slow.act then s.slow.bank1 else s.slow.bank0).getD s.fast.pos 0
      digEn := BitVec.ofNat 8 (2 ^ s.fast.pos)
      phase := .lit
      dwell := 0 } }

/-- 43_refresh_scheduler.md R167, R168, R169. Frame: every register but the fast path's and `acq_pend`, which is set when
CADENCE reaches its period and otherwise kept. -/
def Obligations.SchShowToBlankAdvancesAndCounts : Prop :=
  (∀ s : State, fastOp s = some .schShowToBlank ↔
    rstIn s = false ∧ s.slow.dispValid = true ∧ tickIn s = true ∧ s.fast.phase = .lit ∧
      s.fast.dwell + 1 = s.cfg.onTicks) ∧
  ∀ s : State, exec .schShowToBlank s = .next { s with
    fast := {
      digEn := 0
      seg := 0
      phase := .blank
      dwell := 0
      pos := (s.fast.pos + 1) % s.cfg.digits
      cyc := if s.fast.pos = s.cfg.digits - 1 then
          (if s.fast.cyc = s.cfg.cadence - 1 then 0 else s.fast.cyc + 1)
        else s.fast.cyc }
    acqPend := s.acqPend || decide (s.fast.pos = s.cfg.digits - 1 ∧ s.fast.cyc = s.cfg.cadence - 1) }

/-! ### The slow path's operations -/

/-- 44_acquisition_and_digit_buffer.md R202. Frame: the fast path's registers. -/
def Obligations.AcqResetClearsSlowPath : Prop :=
  (∀ s : State, slowOp s = some .acqReset ↔ rstIn s = true) ∧
  ∀ s : State, exec .acqReset s = .next { s with
    slow := { astate := .idle, wcnt := 0, raw := 0, meas := 0,
              ring := List.replicate s.cfg.window 0, idx := 0, sum := 0, seedCnt := 0,
              bank0 := List.replicate s.cfg.digits 0, bank1 := List.replicate s.cfg.digits 0,
              act := false, dispValid := false, pubVal := 0, acqFault := false }
    acqPend := false }

/-- 44_acquisition_and_digit_buffer.md R203: no register is written. -/
def Obligations.AcqIdleHolds : Prop :=
  (∀ s : State, slowOp s = some .acqIdle ↔
    rstIn s = false ∧ s.slow.astate = .idle ∧ ¬ s.slow.seedCnt < s.cfg.window ∧ s.acqPend = false) ∧
  ∀ s : State, exec .acqIdle s = .next s

/-- 44_acquisition_and_digit_buffer.md R204. Frame: every register but `astate` and `acq_pend`. -/
def Obligations.AcqLaunchConsumesRequest : Prop :=
  (∀ s : State, slowOp s = some .acqLaunch ↔
    rstIn s = false ∧ s.slow.astate = .idle ∧ (s.slow.seedCnt < s.cfg.window ∨ s.acqPend = true)) ∧
  ∀ s : State, exec .acqLaunch s = .next { s with slow := { s.slow with astate := .start }, acqPend := false }

/-- 44_acquisition_and_digit_buffer.md R205. Frame: every register but `wcnt` and `astate`. -/
def Obligations.AcqStartRequestsConversion : Prop :=
  (∀ s : State, slowOp s = some .acqStart ↔ rstIn s = false ∧ s.slow.astate = .start) ∧
  (∀ s : State, s.slow.astate = .start →
    (outputs s).adcStartO = true ∧ (outputs s).adcChanO = BitVec.ofNat 3 s.cfg.adcChannel) ∧
  ∀ s : State, exec .acqStart s = .next { s with slow := { s.slow with wcnt := 0, astate := .wait } }

/-- 44_acquisition_and_digit_buffer.md R206. Frame: every register but `wcnt`. -/
def Obligations.AcqPollCountsOnlyWithTimeout : Prop :=
  (∀ s : State, slowOp s = some .acqPoll ↔
    rstIn s = false ∧ s.slow.astate = .wait ∧ doneIn s = false ∧
      ¬ (0 < s.cfg.adcTimeout ∧ s.slow.wcnt = s.cfg.adcTimeout - 1)) ∧
  (∀ s : State, 0 < s.cfg.adcTimeout →
    exec .acqPoll s = .next { s with slow := { s.slow with wcnt := s.slow.wcnt + 1 } }) ∧
  ∀ s : State, s.cfg.adcTimeout = 0 → exec .acqPoll s = .next s

/-- 44_acquisition_and_digit_buffer.md R207. Frame: every register but `raw`, `acq_fault`, `astate`. -/
def Obligations.AcqCaptureTakesAnyResult : Prop :=
  (∀ s : State, slowOp s = some .acqCapture ↔ rstIn s = false ∧ s.slow.astate = .wait ∧ doneIn s = true) ∧
  ∀ s : State, exec .acqCapture s = .next { s with
    slow := { s.slow with
      raw := BitVec.ofNat 10 ((sampledInput s).toNat % 2 ^ 10)
      acqFault := false
      astate := .scale } }

/-- 44_acquisition_and_digit_buffer.md R208. Frame: every register but `acq_fault`, `wcnt`, `astate`; so the filter and the
DigitBuffer are unchanged. -/
def Obligations.AcqTimeoutReportsFault : Prop :=
  (∀ s : State, slowOp s = some .acqTimeout ↔
    rstIn s = false ∧ s.slow.astate = .wait ∧ doneIn s = false ∧ 0 < s.cfg.adcTimeout ∧
      s.slow.wcnt = s.cfg.adcTimeout - 1) ∧
  ∀ s : State, exec .acqTimeout s = .next { s with
    slow := { s.slow with acqFault := true, wcnt := 0, astate := .idle } }

/-- 44_acquisition_and_digit_buffer.md R209. Frame: every register but `astate`. -/
def Obligations.AcqReservedStateReturnsToIdle : Prop :=
  (∀ s : State, slowOp s = some .acqReservedState ↔ rstIn s = false ∧ s.slow.astate = .reserved) ∧
  ∀ s : State, exec .acqReservedState s = .next { s with slow := { s.slow with astate := .idle } }

/-- 42_fixed_point_scaler_and_limiter.md R144. Frame: every register but `meas` and `astate`. -/
def Obligations.AcqScaleScalesAndClamps : Prop :=
  (∀ s : State, slowOp s = some .acqScale ↔ rstIn s = false ∧ s.slow.astate = .scale) ∧
  ∀ s : State, exec .acqScale s = .next { s with
    slow := { s.slow with
      meas := min ((s.slow.raw.toNat * s.cfg.refScale * 10 + s.cfg.roundHalf) / s.cfg.fullScale) 9999
      astate := .filter } }

/-- 41_moving_average_filter.md R123, R122, where `idx` names an entry and `ring[idx] <= sum`, as R122 says. Frame: every
register but `sum`, `ring[idx]`, `idx`, `seed_cnt`, `astate`; the other entries of the ring read as before. -/
def Obligations.AcqSeedWritesOneSample : Prop :=
  (∀ s : State, slowOp s = some .acqSeed ↔
    rstIn s = false ∧ s.slow.astate = .filter ∧ s.slow.seedCnt < s.cfg.window - 1) ∧
  ∀ s : State, s.slow.idx < s.slow.ring.length → s.slow.ring.getD s.slow.idx 0 ≤ s.slow.sum →
    exec .acqSeed s = .next { s with
    slow := { s.slow with
      sum := s.slow.sum - s.slow.ring.getD s.slow.idx 0 + s.slow.meas
      ring := s.slow.ring.set s.slow.idx s.slow.meas
      idx := (s.slow.idx + 1) % s.cfg.window
      seedCnt := s.slow.seedCnt + 1
      astate := .idle } }

/-- 41_moving_average_filter.md R124, R122. Frame as for ACQ_SEED. -/
def Obligations.AcqSeedLastCompletesWindow : Prop :=
  (∀ s : State, slowOp s = some .acqSeedLast ↔
    rstIn s = false ∧ s.slow.astate = .filter ∧ s.slow.seedCnt + 1 = s.cfg.window) ∧
  ∀ s : State, s.slow.idx < s.slow.ring.length → s.slow.ring.getD s.slow.idx 0 ≤ s.slow.sum →
    exec .acqSeedLast s = .next { s with
    slow := { s.slow with
      sum := s.slow.sum - s.slow.ring.getD s.slow.idx 0 + s.slow.meas
      ring := s.slow.ring.set s.slow.idx s.slow.meas
      idx := (s.slow.idx + 1) % s.cfg.window
      seedCnt := s.cfg.window
      astate := .build } }

/-- 41_moving_average_filter.md R125, R122. Frame: every register but `sum`, `ring[idx]`, `idx`, `astate`. In a state within
the range invariants the operation is selected exactly with a full window. -/
def Obligations.AcqUpdateEvictsOldest : Prop :=
  (∀ s : State, RangeInv s → (slowOp s = some .acqUpdate ↔
    rstIn s = false ∧ s.slow.astate = .filter ∧ s.slow.seedCnt = s.cfg.window)) ∧
  ∀ s : State, s.slow.idx < s.slow.ring.length → s.slow.ring.getD s.slow.idx 0 ≤ s.slow.sum →
    exec .acqUpdate s = .next { s with
    slow := { s.slow with
      sum := s.slow.sum - s.slow.ring.getD s.slow.idx 0 + s.slow.meas
      ring := s.slow.ring.set s.slow.idx s.slow.meas
      idx := (s.slow.idx + 1) % s.cfg.window
      astate := .build } }

/-- 44_acquisition_and_digit_buffer.md R218. Frame: every register but the shadow bank and `astate`; every entry of the
active bank reads as before. -/
def Obligations.AcqBuildWritesShadowBank : Prop :=
  (∀ s : State, slowOp s = some .acqBuild ↔ rstIn s = false ∧ s.slow.astate = .build) ∧
  (∀ s : State, s.slow.act = false → exec .acqBuild s = .next { s with
    slow := { s.slow with bank1 := digitPatterns s.cfg (s.slow.sum / s.cfg.window), astate := .publish } }) ∧
  ∀ s : State, s.slow.act = true → exec .acqBuild s = .next { s with
    slow := { s.slow with bank0 := digitPatterns s.cfg (s.slow.sum / s.cfg.window), astate := .publish } }

/-- 44_acquisition_and_digit_buffer.md R219. Frame: every register but `act`, `disp_valid`, `pub_val`, `astate`. -/
def Obligations.AcqPublishFlipsBank : Prop :=
  (∀ s : State, slowOp s = some .acqPublish ↔ rstIn s = false ∧ s.slow.astate = .publish) ∧
  ∀ s : State, exec .acqPublish s = .next { s with
    slow := { s.slow with
      act := !s.slow.act
      dispValid := true
      pubVal := s.slow.sum / s.cfg.window
      astate := .idle } }

/-! ### The combinational functions. Their results are seen in the model's own field `fnOut` (log 4); no register of
the spec is written. -/

/-- 40_segment_encoder_lut.md R102, R103, R104. -/
def Obligations.SegEncodeLooksUpDigit : Prop :=
  (∀ (s : State) (d : Digit) (dp : Bool), exec (.segEncode d dp) s =
    .next { s with fnOut := some (.pattern (segEncode s.cfg d dp)) }) ∧
  ∀ (c : Config) (d : Digit) (dp : Bool),
    (segEncode c d dp).getLsbD 7 = dp ∧
    ∀ j, j < 7 → (segEncode c d dp).getLsbD j = (c.segTable.getD (d.toNat % 10) 0).getLsbD j

/-- 41_moving_average_filter.md R126. For a sum above the `0..N*9999` that R126 and 30_encoding.md R78 give, following the
pseudocode is the model's choice (log 10): there the result can leave 14 bits. -/
def Obligations.AverageFloorDivides : Prop :=
  ∀ (s : State) (sum : Nat), exec (.average sum) s =
    .next { s with fnOut := some (.value (sum / s.cfg.window)) }

/-- 42_fixed_point_scaler_and_limiter.md R141, R143: the value, its ceiling, and that it is monotone. -/
def Obligations.ScaleClampIsExactAndMonotone : Prop :=
  (∀ (s : State) (raw : RawSample), exec (.scaleClamp raw) s = .next { s with
    fnOut := some (.value (min ((raw.toNat * s.cfg.refScale * 10 + s.cfg.roundHalf) / s.cfg.fullScale) 9999)) }) ∧
  (∀ (c : Config) (raw : RawSample), scaleClamp c raw ≤ 9999) ∧
  ∀ (c : Config) (a b : RawSample), a.toNat ≤ b.toNat → scaleClamp c a ≤ scaleClamp c b

/-- 42_fixed_point_scaler_and_limiter.md R142: with `ROUND_HALF = FULL_SCALE div 2`, twice the distance from `q` to the exact
quotient is at most 1, and a tie is rounded up. -/
def Obligations.ScaleRoundsHalfUp : Prop :=
  ∀ (c : Config) (raw : RawSample), 1 ≤ c.fullScale → c.roundHalf = c.fullScale / 2 →
    2 * scaleQuotient c raw * c.fullScale ≤ 2 * (raw.toNat * c.refScale * 10) + c.fullScale ∧
    2 * (raw.toNat * c.refScale * 10) < 2 * scaleQuotient c raw * c.fullScale + c.fullScale

/-- 42_fixed_point_scaler_and_limiter.md R146, R147: each digit, and that the split loses nothing. For `v` above the `0..9999`
of R146, R147 and 30_encoding.md R78, following the pseudocode is the model's choice (log 10): there a digit of index 4 or
more need not be 0. -/
def Obligations.DecSplitGivesDecimalDigits : Prop :=
  (∀ (s : State) (v : Value), exec (.decSplit v) s = .next { s with
    fnOut := some (.digits ((List.range s.cfg.digits).map (fun i => v.toNat / 10 ^ i % 10))) }) ∧
  (∀ (c : Config) (v : Nat), v < 10 ^ c.digits →
    ((List.range c.digits).map (fun i => (decSplit c v).getD i 0 * 10 ^ i)).sum = v) ∧
  ∀ (c : Config) (v : Nat), 4 ≤ c.digits → v ≤ 9999 →
    ((List.range c.digits).map (fun i => (decSplit c v).getD i 0 * 10 ^ i)).sum = v

/-- 44_acquisition_and_digit_buffer.md R216, R217: `D` bytes; a byte is dark exactly when `BLANK_LZ = 1`, its digit is a zero
above the most significant non-zero one, and it is above `DP_POS`; otherwise it is the digit's pattern, with the point
at `DP_POS`. For `v` above the `0..9999` of R216 and 30_encoding.md R78, following the pseudocode is the model's choice
(log 10). -/
def Obligations.DigitPatternsBlankLeadingZeros : Prop :=
  (∀ (s : State) (v : Value), exec (.digitPatterns v) s =
    .next { s with fnOut := some (.patterns (digitPatterns s.cfg v.toNat)) }) ∧
  (∀ (c : Config) (v : Nat), (digitPatterns c v).length = c.digits) ∧
  ∀ (c : Config) (v i : Nat), i < c.digits →
    ((c.blankLz = true ∧ 0 < i ∧ (∀ j, i ≤ j → j < c.digits → v / 10 ^ j % 10 = 0) ∧
        (∀ p, c.dpPos = some p → p < i)) →
      (digitPatterns c v).getD i 0 = 0) ∧
    (¬ (c.blankLz = true ∧ 0 < i ∧ (∀ j, i ≤ j → j < c.digits → v / 10 ^ j % 10 = 0) ∧
        (∀ p, c.dpPos = some p → p < i)) →
      (digitPatterns c v).getD i 0 =
        (c.segTable.getD (v / 10 ^ i % 10) 0).setWidth 8 ||| (if c.dpPos = some i then 0x80 else 0x00))

/-! ### Decoding, encoding, inputs -/

/-- 30_encoding.md R71, R73: each bit of the two select vectors, bits 7:5 of `ASEL` with the codes of 10_state.md R29. -/
def Obligations.SelectVectorsAssembled : Prop :=
  ∀ s : State,
    (ssel s).getLsbD 4 = rstIn s ∧ (ssel s).getLsbD 3 = s.slow.dispValid ∧ (ssel s).getLsbD 2 = tickIn s ∧
    (ssel s).getLsbD 1 = decide (s.fast.phase = .lit) ∧
    (ssel s).getLsbD 0 =
      decide (s.fast.dwell + 1 = if s.fast.phase = .lit then s.cfg.onTicks else s.cfg.blankTicks) ∧
    (asel s).getLsbD 8 = rstIn s ∧ (asel s).extractLsb' 5 3 =
      (match s.slow.astate with
        | .idle => 0 | .start => 1 | .wait => 2 | .scale => 3
        | .filter => 4 | .build => 5 | .publish => 6 | .reserved => 7) ∧
    (asel s).getLsbD 4 = decide (s.slow.seedCnt < s.cfg.window ∨ s.acqPend = true) ∧
    (asel s).getLsbD 3 = doneIn s ∧
    (asel s).getLsbD 2 = decide (0 < s.cfg.adcTimeout ∧ s.slow.wcnt = s.cfg.adcTimeout - 1) ∧
    (asel s).getLsbD 1 = decide (s.slow.seedCnt < s.cfg.window) ∧
    (asel s).getLsbD 0 = decide (s.slow.seedCnt + 1 = s.cfg.window)

/-- 30_encoding.md R75: every value of each select vector matches exactly one row, and an agent's operation is one of its
own (R70). -/
def Obligations.EachAgentSelectsExactlyOneOperation : Prop :=
  (∀ v : SselWord, (sselRows.filter (rowMatches · v)).length = 1) ∧
  (∀ v : AselWord, (aselRows.filter (rowMatches · v)).length = 1) ∧
  (∀ s : State, ∃ f, fastOp s = some f ∧ f.agent = .fastPath) ∧
  ∀ s : State, ∃ a, slowOp s = some a ∧ a.agent = .slowPath

/-- Decode and encode agree, for every well-formed operation of the table and every operand. -/
def Obligations.DecodeOfEncodeIsIdentity : Prop :=
  ∀ (c : Config) (i : Instr), i.wf c = true → decode c (encode i).1 (encode i).2 = .ok i

/-- The other direction for the operand words of the functions (30_encoding.md R78), where each word has one meaning. The
second clause, that a word wider than its format is rejected by name, is in no rule: it is the model's choice (log 19). -/
def Obligations.FunctionWordsHaveOneMeaning : Prop :=
  (∀ (c : Config) (f : Format) (w : Nat) (i : Instr), f ≠ .ssel → f ≠ .asel → decode c f w = .ok i →
    encode i = (f, w) ∧ i.wf c = true) ∧
  ∀ (c : Config) (f : Format) (w : Nat), 2 ^ formatWidth c f ≤ w → decode c f w = .error (.tooWide f)

/-- Eleven words written out from the tables of 30_encoding.md R72 and R74, one or two for every family, and one refused
(sanity). Reading a row of 8 bits as `SSEL` and one of 16 as `ASEL`, and refusing the word with a tenth bit, is the model's
choice (log 19). -/
def Obligations.TableWordsDecode : Prop :=
  decodeTableWord 8 0b10111 = some .schReset ∧ decodeTableWord 8 0b00111 = some .schWaitValid ∧
  decodeTableWord 8 0b01110 = some .schDwell ∧ decodeTableWord 8 0b01111 = some .schShowToBlank ∧
  decodeTableWord 16 0b111111111 = some .acqReset ∧ decodeTableWord 16 0b000010011 = some .acqLaunch ∧
  decodeTableWord 16 0b001001100 = some .acqCapture ∧ decodeTableWord 16 0b001100000 = some .acqScale ∧
  decodeTableWord 16 0b010000001 = some .acqUpdate ∧ decodeTableWord 16 0b010000011 = some .acqSeedLast ∧
  decodeTableWord 16 0b011000000 = some .acqPublish ∧ decodeTableWord 16 0b1000000000 = none

/-- 30_encoding.md R80, R81: the fields of an assembled input vector, the pseudo-vectors, and the length of a program. -/
def Obligations.InputVectorsAndNotation : Prop :=
  (∀ (r t d : Bool) (x : RawSample), packInput r t d x =
    BitVec.ofNat 13 (r.toNat * 2 ^ 12 + t.toNat * 2 ^ 11 + d.toNat * 2 ^ 10 + x.toNat)) ∧
  (∀ v : InVec, packInput (inRst v) (inTick v) (inDone v) (inData v) = v) ∧
  (∀ x : RawSample, expandVector .rst = 0x1000 ∧ expandVector .nop = 0x0000 ∧ expandVector .tick = 0x0800 ∧
    expandVector (.done x) = packInput false false true x ∧
    expandVector (.tickDone x) = packInput false true true x ∧
    expandVector (.data x) = packInput false false false x) ∧
  ∀ p : List StimLine, (expandProgram p).length = (p.map StimLine.count).sum

/-- 70_reset_and_hazards.md R272, 30_encoding.md R81: a program is accepted exactly when its first cycle asserts `rst`, and
then only the vectors to come are set. The refusal is the model's choice among what R272 allows (log 11). -/
def Obligations.ProgramsMustBeginWithReset : Prop :=
  ∀ (p : List StimLine) (s : State),
    ((∃ v vs, expandProgram p = v :: vs ∧ inRst v = true) → loadProgram p s = .next { s with stim := expandProgram p }) ∧
    ((¬ ∃ v vs, expandProgram p = v :: vs ∧ inRst v = true) → loadProgram p s = .refused .programWithoutReset)

/-! ### One clock edge -/

/-- A step runs the two decoded operations: each on the pre-edge state, their registers committed together (00_scope.md R7,
R13, 20_memory.md R58), `acq_pend` combined as in 44_acquisition_and_digit_buffer.md R221. What becomes of the model's own
fields, `stim` losing its head, `drawIdx` advancing (log 2) and `fnOut` kept (log 4), and that `exec` is one agent's
operation alone (log 5), are the model's. -/
def Obligations.StepRunsSelectedOperations : Prop :=
  ∀ (s : State) (f a : Instr), s.cfg.Legal → fastOp s = some f → slowOp s = some a →
    ∃ tf ta, exec f s = .next tf ∧ exec a s = .next ta ∧
      step s = .next {
        cfg := s.cfg
        fast := tf.fast
        acqPend := !rstIn s &&
          (decide (f = .schShowToBlank ∧ s.fast.pos = s.cfg.digits - 1 ∧ s.fast.cyc = s.cfg.cadence - 1) ||
            (s.acqPend && !decide (a = .acqLaunch)))
        slow := ta.slow
        stim := s.stim.tail
        drawIdx := s.drawIdx + 1
        fnOut := s.fnOut }

/-- 00_scope.md R10, R11, 60_exceptions.md R246: a legal configuration is one with every parameter in its range; with it no
state and no input stops a step; any other is refused by the name of a parameter and never stepped. -/
def Obligations.OnlyIllegalConfigurationsAreRefused : Prop :=
  (∀ c : Config, c.Legal ↔
    (1 ≤ c.digits ∧ c.digits ≤ 8 ∧ 1 ≤ c.window ∧ 1 ≤ c.onTicks ∧ 1 ≤ c.blankTicks ∧ 1 ≤ c.cadence ∧
      1 ≤ c.refScale ∧ 1 ≤ c.fullScale ∧ (∀ p, c.dpPos = some p → p < c.digits) ∧ c.segTable.length = 10 ∧
      c.adcChannel < 2 ^ 3)) ∧
  (∀ s : State, s.cfg.Legal → ∃ t, step s = .next t) ∧
  ∀ (s : State) (p : ConfigParam), s.cfg.check = some p → step s = .refused (.illegalConfig p)

/-- 70_reset_and_hazards.md R270, R271, R272: from ANY register contents, one edge with `rst = 1` leaves every register at its
reset value, and the outputs at theirs. -/
def Obligations.ResetEdgeClearsEverything : Prop :=
  ∀ s : State, s.cfg.Legal → rstIn s = true →
    fastOp s = some .schReset ∧ slowOp s = some .acqReset ∧ ∃ t, step s = .next t ∧
    t.cfg = s.cfg ∧
    t.fast = { phase := .blank, pos := 0, dwell := 0, cyc := 0, digEn := 0, seg := 0 } ∧
    t.acqPend = false ∧
    t.slow = { astate := .idle, wcnt := 0, raw := 0, meas := 0,
               ring := List.replicate s.cfg.window 0, idx := 0, sum := 0, seedCnt := 0,
               bank0 := List.replicate s.cfg.digits 0, bank1 := List.replicate s.cfg.digits 0,
               act := false, dispValid := false, pubVal := 0, acqFault := false } ∧
    outputs t = { digEnO := 0, segO := 0, adcStartO := false, adcChanO := BitVec.ofNat 3 s.cfg.adcChannel,
                  statusO := 0, valueO := 0 }

/-- 44_acquisition_and_digit_buffer.md R221, R169: `acq_pend` after an edge, in the pre-edge registers and the inputs. -/
def Obligations.RequestBitCombinesSetAndClear : Prop :=
  ∀ s t : State, step s = .next t →
    (t.acqPend = true ↔ rstIn s = false ∧
      ((s.slow.dispValid = true ∧ tickIn s = true ∧ s.fast.phase = .lit ∧ s.fast.dwell + 1 = s.cfg.onTicks ∧
          s.fast.pos = s.cfg.digits - 1 ∧ s.fast.cyc = s.cfg.cadence - 1) ∨
        (s.acqPend = true ∧ s.slow.astate ≠ .idle)))

/-- 60_exceptions.md R248, the rows of its table: 1 reset wins over everything; 2 and 3 a tick before the first publish, or at
its edge, is lost; 4 a Blank-to-Show at the edge of a publish reads the old bank; 5 completion wins over the timeout;
6 a request at the edge of a launch is kept; 7 requests merge; 8 `seeding` and `acq_pend` do not occur together. In row 4,
what is read where `pos` is outside the bank, as it can be only before a reset, is the model's choice (log 9). -/
def Obligations.PrioritiesAtOneEdge : Prop :=
  (∀ s t : State, step s = .next t → rstIn s = true →
    t.fast = FastRegs.reset ∧ t.slow = SlowRegs.reset s.cfg ∧ t.acqPend = false) ∧
  (∀ s t : State, step s = .next t → rstIn s = false → s.slow.dispValid = false → t.fast = s.fast) ∧
  (∀ s t : State, step s = .next t → rstIn s = false → s.slow.astate = .publish → s.slow.dispValid = false →
    t.fast = s.fast ∧ t.slow.dispValid = true) ∧
  (∀ s t : State, step s = .next t → s.slow.astate = .publish → fastOp s = some .schBlankToShow →
    t.fast.seg = (if s.slow.act then s.slow.bank1 else s.slow.bank0).getD s.fast.pos 0 ∧
      t.slow.act = !s.slow.act) ∧
  (∀ s t : State, step s = .next t → rstIn s = false → s.slow.astate = .wait → doneIn s = true → tmo s = true →
    t.slow.astate = .scale ∧ t.slow.raw = dataIn s ∧ t.slow.acqFault = false) ∧
  (∀ s t : State, step s = .next t → fastOp s = some .schShowToBlank → s.fast.pos = s.cfg.digits - 1 →
    s.fast.cyc = s.cfg.cadence - 1 → slowOp s = some .acqLaunch →
    t.acqPend = true ∧ t.slow.astate = .start) ∧
  (∀ s t : State, step s = .next t → fastOp s = some .schShowToBlank → s.fast.pos = s.cfg.digits - 1 →
    s.fast.cyc = s.cfg.cadence - 1 → s.acqPend = true → t.acqPend = true) ∧
  ∀ s : State, CoreInv s → ¬ (s.slow.seedCnt < s.cfg.window ∧ s.acqPend = true)

/-- 10_state.md R21, 00_scope.md R9: an operation writes only its own agent's registers, a function none; `acq_pend` is written
only by the operations R28 names; no operation changes the configuration. -/
def Obligations.EachRegisterHasOneWriter : Prop :=
  ∀ (i : Instr) (s t : State), exec i s = .next t →
    t.cfg = s.cfg ∧ t.stim = s.stim ∧ t.drawIdx = s.drawIdx ∧
    (i.agent = .fastPath → t.slow = s.slow ∧ t.fnOut = s.fnOut ∧ (i ≠ .schShowToBlank → t.acqPend = s.acqPend)) ∧
    (i.agent = .slowPath → t.fast = s.fast ∧ t.fnOut = s.fnOut ∧
      (i ≠ .acqLaunch → i ≠ .acqReset → t.acqPend = s.acqPend)) ∧
    (i.agent = .function → t.fast = s.fast ∧ t.slow = s.slow ∧ t.acqPend = s.acqPend)

/-- 10_state.md R45, R43: each output port from the registers. -/
def Obligations.OutputsAreMooreFunctions : Prop :=
  ∀ s : State,
    (outputs s).digEnO = s.fast.digEn ∧ (outputs s).segO = s.fast.seg ∧
    ((outputs s).adcStartO = true ↔ s.slow.astate = .start) ∧
    (s.cfg.Legal → (outputs s).adcChanO.toNat = s.cfg.adcChannel) ∧
    (outputs s).statusO.getLsbD 0 = s.slow.dispValid ∧
    (outputs s).statusO.getLsbD 1 = decide (s.slow.seedCnt = s.cfg.window) ∧
    (outputs s).statusO.getLsbD 2 = decide (s.slow.astate ≠ .idle) ∧
    (outputs s).statusO.getLsbD 3 = s.slow.acqFault ∧
    (s.slow.pubVal ≤ 9999 → (outputs s).valueO.toNat = s.slow.pubVal)

/-! ### Invariants -/

/-- The state after reset meets the invariants, whatever the configuration and the environment (R46, R47, R270). -/
def Obligations.InvariantsHoldAtReset : Prop :=
  (∀ (c : Config) (vs : List InVec), c.Legal →
    CoreInv (State.resetWith c vs) ∧ DisplayInv (State.resetWith c vs)) ∧
  CoreInv State.reset ∧ DisplayInv State.reset

/-- 10_state.md R46, R47: every step keeps the invariants, from every state that meets them, under every input. -/
def Obligations.EveryStepKeepsInv : Prop :=
  ∀ s t : State, CoreInv s → step s = .next t → CoreInv t

/-- 10_state.md R46, R47: true in every state reachable from reset under any inputs, and no such run ever stops. The run
starts from any register contents with an edge whose input asserts `rst`. -/
def Obligations.ReachableStatesMeetInvariants : Prop :=
  ∀ (s : State) (n : Nat), s.cfg.Legal → rstIn s = true →
    ∃ t, runEdges (n + 1) s = .next t ∧ RangeInv t ∧ StructInv t

/-- 44_acquisition_and_digit_buffer.md R222: every step keeps the displayed bank the patterns of the published value. -/
def Obligations.EveryStepKeepsDisplay : Prop :=
  ∀ s t : State, DisplayInv s → step s = .next t → DisplayInv t

/-- 00_scope.md R12: no register ever leaves its width. -/
def Obligations.RegistersFitTheirWidths : Prop :=
  ∀ s : State, CoreInv s →
    s.fast.pos < 2 ^ posW s.cfg ∧ s.fast.dwell < 2 ^ dwW s.cfg ∧ s.fast.cyc < 2 ^ cycW s.cfg ∧
    s.slow.idx < 2 ^ idxW s.cfg ∧ s.slow.seedCnt < 2 ^ scW s.cfg ∧ s.slow.sum < 2 ^ sumW s.cfg ∧
    s.slow.wcnt < 2 ^ wcW s.cfg ∧ s.slow.meas < 2 ^ measW ∧ s.slow.pubVal < 2 ^ measW ∧
    ∀ x ∈ s.slow.ring, x < 2 ^ measW

/-- 41_moving_average_filter.md R127, R129: the average of the window never passes 9999; and after ACQ_UPDATE the window
holds the last `N` measurements, oldest first, with `sum` their sum. -/
def Obligations.UpdateAveragesLastWindow : Prop :=
  (∀ s : State, CoreInv s → s.slow.sum / s.cfg.window ≤ 9999) ∧
  ∀ s : State, CoreInv s → ∃ t, exec .acqUpdate s = .next t ∧
    windowByAge t.slow = (windowByAge s.slow).drop 1 ++ [s.slow.meas] ∧
    average t.cfg t.slow.sum = ((windowByAge s.slow).drop 1 ++ [s.slow.meas]).sum / s.cfg.window

/-! ### The display -/

/-- 43_refresh_scheduler.md R171, 60_exceptions.md R252: at most one digit line is active, and line `p` is exactly while
Show(p). -/
def Obligations.AtMostOneDigitLine : Prop :=
  ∀ s : State, CoreInv s → popcount (outputs s).digEnO ≤ 1 ∧
    ∀ p, p < 8 → ((outputs s).digEnO.getLsbD p = true ↔ s.fast.phase = .lit ∧ s.fast.pos = p)

/-- 43_refresh_scheduler.md R172, 70_reset_and_hazards.md R276: while a digit stays enabled nothing changes on the lines, and a
new lit pattern appears only from all-dark, at the edge that enables its own digit. -/
def Obligations.NoGhosting : Prop :=
  ∀ s t : State, CoreInv s → step s = .next t →
    (s.fast.digEn ≠ 0 → t.fast.digEn ≠ 0 → t.fast.digEn = s.fast.digEn ∧ t.fast.seg = s.fast.seg) ∧
    (t.fast.seg ≠ s.fast.seg → t.fast.seg ≠ 0 →
      s.fast.digEn = 0 ∧ s.fast.seg = 0 ∧ t.fast.phase = .lit ∧ t.fast.pos = s.fast.pos ∧
        t.fast.seg = (if s.slow.act then s.slow.bank1 else s.slow.bank0).getD s.fast.pos 0)

/-- 43_refresh_scheduler.md R170: Show(p) is entered only from Blank(p), and is left to Blank((p+1) mod D); within a phase
the position stays. -/
def Obligations.PositionSequence : Prop :=
  ∀ s t : State, step s = .next t → rstIn s = false →
    (t.fast.phase = .lit → t.fast.pos = s.fast.pos) ∧
    (s.fast.phase = .lit → t.fast.phase = .blank → t.fast.pos = (s.fast.pos + 1) % s.cfg.digits) ∧
    (s.fast.phase = .blank → t.fast.pos = s.fast.pos)

/-- 43_refresh_scheduler.md R174: a phase lasts its number of ticks, counted whatever lies between them. -/
def Obligations.PhaseLastsItsTicks : Prop :=
  ∀ (s : State) (vs rest : List InVec), s.cfg.Legal → s.slow.dispValid = true → s.stim = vs ++ rest →
    (∀ v ∈ vs, inRst v = false) →
    (s.fast.dwell + tickCount vs < phaseLen s →
      ∃ t, runEdges vs.length s = .next t ∧ t.fast = { s.fast with dwell := s.fast.dwell + tickCount vs }) ∧
    (∀ us v, vs = us ++ [v] → inTick v = true → s.fast.dwell + tickCount vs = phaseLen s →
      ∃ t, runEdges vs.length s = .next t ∧ t.fast.phase ≠ s.fast.phase ∧ t.fast.dwell = 0)

/-- 43_refresh_scheduler.md R170, R174: a scheduler cycle is `D * (ON_TICKS + BLANK_TICKS)` ticks, from Blank(0) to
Blank(0), and it counts one toward the cadence. -/
def Obligations.SchedulerCycleLength : Prop :=
  ∀ (s : State) (us rest : List InVec) (v : InVec), CoreInv s → s.slow.dispValid = true →
    s.stim = us ++ v :: rest → (∀ u ∈ us, inRst u = false) → inRst v = false → inTick v = true →
    s.fast.phase = .blank → s.fast.pos = 0 → s.fast.dwell = 0 →
    tickCount us + 1 = s.cfg.digits * (s.cfg.onTicks + s.cfg.blankTicks) →
    ∃ t, runEdges (us.length + 1) s = .next t ∧
      t.fast = { phase := .blank, pos := 0, dwell := 0, cyc := (s.fast.cyc + 1) % s.cfg.cadence, digEn := 0, seg := 0 }

/-- 44_acquisition_and_digit_buffer.md R220: the displayed bank changes only by the flip of ACQ_PUBLISH, from one whole bank
to the other, and at reset. -/
def Obligations.DisplayedBankChangesOnlyByPublish : Prop :=
  ∀ s t : State, step s = .next t → rstIn s = false →
    (s.slow.astate ≠ .publish → bankOf t.slow t.slow.act = bankOf s.slow s.slow.act) ∧
    (s.slow.astate = .publish → t.slow.act = (!s.slow.act) ∧ bankOf t.slow t.slow.act = bankOf s.slow (!s.slow.act) ∧
      t.slow.bank0 = s.slow.bank0 ∧ t.slow.bank1 = s.slow.bank1)

/-- 20_memory.md R60, 44_acquisition_and_digit_buffer.md R222: what a Show drives is the pattern, for its position, of the
value published before the edge; a half-written buffer is never seen. -/
def Obligations.ShownDigitIsOfPublishedValue : Prop :=
  ∀ s t : State, CoreInv s → DisplayInv s → step s = .next t → fastOp s = some .schBlankToShow →
    t.fast.digEn = BitVec.ofNat 8 (2 ^ s.fast.pos) ∧
    t.fast.seg = (digitPatterns s.cfg s.slow.pubVal).getD s.fast.pos 0

/-! ### What each agent cannot learn -/

/-- 20_memory.md R59, 43_refresh_scheduler.md R175, 41_moving_average_filter.md R131: of the slow path, the fast path depends on
`disp_valid` and the entry `bank[act][pos]` alone, and of the inputs on `rst` and `tick_i` alone. The entry read where `pos`
is outside the bank is the model's choice (log 9). -/
def Obligations.FastPathSeesOnlyDisplayedEntry : Prop :=
  ∀ s1 s2 t1 t2 : State, s1.cfg = s2.cfg → s1.fast = s2.fast → s1.slow.dispValid = s2.slow.dispValid →
    bankAt s1.slow s1.slow.act s1.fast.pos = bankAt s2.slow s2.slow.act s2.fast.pos →
    rstIn s1 = rstIn s2 → tickIn s1 = tickIn s2 → step s1 = .next t1 → step s2 = .next t2 → t1.fast = t2.fast

/-- 10_state.md R21: of the fast path, the slow path depends on `acq_pend` alone. The entry read where `idx` is outside the
ring, and a difference below zero, are the model's choice (log 9). -/
def Obligations.SlowPathSeesOnlyRequestBit : Prop :=
  ∀ s1 s2 t1 t2 : State, s1.cfg = s2.cfg → s1.slow = s2.slow → s1.acqPend = s2.acqPend →
    rstIn s1 = rstIn s2 → doneIn s1 = doneIn s2 → dataIn s1 = dataIn s2 →
    step s1 = .next t1 → step s2 = .next t2 → t1.slow = t2.slow

/-- 44_acquisition_and_digit_buffer.md R210: `adc_done_i` is looked at only in WAIT, and `adc_data_i` only in a WAIT cycle in
which `adc_done_i = 1`. What an access outside an array and a difference below zero give is the model's choice (log 9). -/
def Obligations.ConverterLookedAtOnlyInWait : Prop :=
  ∀ s1 s2 t1 t2 : State, s1.cfg = s2.cfg → s1.fast = s2.fast → s1.slow = s2.slow → s1.acqPend = s2.acqPend →
    rstIn s1 = rstIn s2 → tickIn s1 = tickIn s2 →
    (s1.slow.astate ≠ .wait ∨ (doneIn s1 = false ∧ doneIn s2 = false)) →
    step s1 = .next t1 → step s2 = .next t2 → t1.fast = t2.fast ∧ t1.slow = t2.slow ∧ t1.acqPend = t2.acqPend

/-! ### Runs of the sequencer -/

/-- 44_acquisition_and_digit_buffer.md R211, 60_exceptions.md R243: with `ADC_TIMEOUT = 0` and a converter that does not
complete, the slow path stays as it is for as long as that lasts, and every step completes. -/
def Obligations.BaselineStallHoldsSlowPath : Prop :=
  ∀ (s : State) (vs rest : List InVec), s.cfg.Legal → s.cfg.adcTimeout = 0 → s.slow.astate = .wait →
    s.stim = vs ++ rest → (∀ v ∈ vs, inRst v = false ∧ inDone v = false) →
    ∃ t, runEdges vs.length s = .next t ∧ t.slow = s.slow

/-- 44_acquisition_and_digit_buffer.md R206, R208, 60_exceptions.md R244: with `ADC_TIMEOUT = T > 0` the wait counts up and is
given up at its `T`-th edge, with the fault reported and the filter and both banks unchanged. -/
def Obligations.TimeoutAfterExactlyItsCycles : Prop :=
  ∀ (s : State) (vs rest : List InVec), s.cfg.Legal → 0 < s.cfg.adcTimeout → s.slow.astate = .wait →
    s.slow.wcnt = 0 → s.stim = vs ++ rest → vs.length = s.cfg.adcTimeout →
    (∀ v ∈ vs, inRst v = false ∧ inDone v = false) →
    (∀ k, k < s.cfg.adcTimeout → ∃ t, runEdges k s = .next t ∧ t.slow = { s.slow with wcnt := k }) ∧
    ∃ t, runEdges s.cfg.adcTimeout s = .next t ∧
      t.slow = { s.slow with acqFault := true, wcnt := 0, astate := .idle }

/-- 44_acquisition_and_digit_buffer.md R200, R212: one acquisition on a full window, end to end, in `6 + w` cycles for `w` WAIT
cycles: launch `a`, start `b`, `w - 1` polls `ps`, the completion `d`, then scale, filter, build, publish. Where `idx` is
outside the ring or `ring[idx]` is above `sum`, which no reachable state has, the entry read and the difference are the
model's choice (log 9). -/
def Obligations.AcquisitionEndToEnd : Prop :=
  ∀ (s : State) (a b d e f g h : InVec) (ps rest : List InVec), s.cfg.Legal →
    s.slow.astate = .idle → s.slow.seedCnt = s.cfg.window → s.acqPend = true →
    s.stim = a :: b :: (ps ++ d :: e :: f :: g :: h :: rest) →
    (∀ v ∈ [a, b, d, e, f, g, h] ++ ps, inRst v = false) →
    (∀ v ∈ ps, inDone v = false) → inDone d = true →
    (s.cfg.adcTimeout = 0 ∨ ps.length < s.cfg.adcTimeout) →
    ∃ t, runEdges (6 + (ps.length + 1)) s = .next t ∧
      t.slow = { bankWrite s.slow (!s.slow.act)
          (digitPatterns s.cfg ((s.slow.sum - ringAt s.slow s.slow.idx + scaleClamp s.cfg (inData d)) / s.cfg.window)) with
        astate := .idle
        wcnt := if s.cfg.adcTimeout = 0 then 0 else ps.length
        raw := inData d
        meas := scaleClamp s.cfg (inData d)
        ring := s.slow.ring.set s.slow.idx (scaleClamp s.cfg (inData d))
        idx := (s.slow.idx + 1) % s.cfg.window
        sum := s.slow.sum - ringAt s.slow s.slow.idx + scaleClamp s.cfg (inData d)
        act := !s.slow.act
        dispValid := true
        pubVal := (s.slow.sum - ringAt s.slow s.slow.idx + scaleClamp s.cfg (inData d)) / s.cfg.window
        acqFault := false }

/-- 70_reset_and_hazards.md R273, 41_moving_average_filter.md R128, 44_acquisition_and_digit_buffer.md R212: with a converter
that is always done, seeding fills the window with the `N` scaled samples in order and the first publish is at the edge
ending cycle `5N + 2`; until then the display is dark; a constant sample is averaged to itself. -/
def Obligations.BootSeedsAndPublishes : Prop :=
  ∀ (c : Config) (vs rest : List InVec), c.Legal → vs.length = 5 * c.window + 2 →
    (∀ v ∈ vs, inRst v = false ∧ inDone v = true) →
    (∀ k, k < 5 * c.window + 2 → ∃ t, runEdges k (State.resetWith c (vs ++ rest)) = .next t ∧
      t.slow.dispValid = false ∧ (outputs t).digEnO = 0 ∧ (outputs t).segO = 0) ∧
    ∃ t, runEdges (5 * c.window + 2) (State.resetWith c (vs ++ rest)) = .next t ∧
      t.slow.dispValid = true ∧ t.fast = FastRegs.reset ∧ t.acqPend = false ∧ t.slow.astate = .idle ∧
      t.slow.ring = seedSamples c vs ∧ t.slow.idx = 0 ∧ t.slow.seedCnt = c.window ∧
      t.slow.sum = (seedSamples c vs).sum ∧ t.slow.pubVal = (seedSamples c vs).sum / c.window ∧
      bankOf t.slow t.slow.act = digitPatterns c t.slow.pubVal ∧
      (∀ x, (∀ v ∈ vs, inData v = x) → t.slow.pubVal = scaleClamp c x)
end

