-- ==== Sys2Proof/Laws/State.lean ====
section
/-! SUPPORT. The fields of every named update of the state, one lemma per field, so that no proof unfolds an update. -/

namespace Sys2Proof.Machine

@[simp] theorem fastReset_phase : FastRegs.reset.phase = .blank := rfl
@[simp] theorem fastReset_pos : FastRegs.reset.pos = 0 := rfl
@[simp] theorem fastReset_dwell : FastRegs.reset.dwell = 0 := rfl
@[simp] theorem fastReset_cyc : FastRegs.reset.cyc = 0 := rfl
@[simp] theorem fastReset_digEn : FastRegs.reset.digEn = 0 := rfl
@[simp] theorem fastReset_seg : FastRegs.reset.seg = 0 := rfl

@[simp] theorem slowReset_astate (c : Config) : (SlowRegs.reset c).astate = .idle := rfl
@[simp] theorem slowReset_wcnt (c : Config) : (SlowRegs.reset c).wcnt = 0 := rfl
@[simp] theorem slowReset_raw (c : Config) : (SlowRegs.reset c).raw = 0 := rfl
@[simp] theorem slowReset_meas (c : Config) : (SlowRegs.reset c).meas = 0 := rfl
@[simp] theorem slowReset_ring (c : Config) : (SlowRegs.reset c).ring = List.replicate c.window 0 := rfl
@[simp] theorem slowReset_idx (c : Config) : (SlowRegs.reset c).idx = 0 := rfl
@[simp] theorem slowReset_sum (c : Config) : (SlowRegs.reset c).sum = 0 := rfl
@[simp] theorem slowReset_seedCnt (c : Config) : (SlowRegs.reset c).seedCnt = 0 := rfl
@[simp] theorem slowReset_bank0 (c : Config) : (SlowRegs.reset c).bank0 = List.replicate c.digits 0 := rfl
@[simp] theorem slowReset_bank1 (c : Config) : (SlowRegs.reset c).bank1 = List.replicate c.digits 0 := rfl
@[simp] theorem slowReset_act (c : Config) : (SlowRegs.reset c).act = false := rfl
@[simp] theorem slowReset_dispValid (c : Config) : (SlowRegs.reset c).dispValid = false := rfl
@[simp] theorem slowReset_pubVal (c : Config) : (SlowRegs.reset c).pubVal = 0 := rfl
@[simp] theorem slowReset_acqFault (c : Config) : (SlowRegs.reset c).acqFault = false := rfl

@[simp] theorem resetWith_cfg (c : Config) (vs : List InVec) : (State.resetWith c vs).cfg = c := rfl
@[simp] theorem resetWith_fast (c : Config) (vs : List InVec) : (State.resetWith c vs).fast = FastRegs.reset := rfl
@[simp] theorem resetWith_acqPend (c : Config) (vs : List InVec) : (State.resetWith c vs).acqPend = false := rfl
@[simp] theorem resetWith_slow (c : Config) (vs : List InVec) : (State.resetWith c vs).slow = SlowRegs.reset c := rfl
@[simp] theorem resetWith_stim (c : Config) (vs : List InVec) : (State.resetWith c vs).stim = vs := rfl
@[simp] theorem resetWith_drawIdx (c : Config) (vs : List InVec) : (State.resetWith c vs).drawIdx = 0 := rfl
@[simp] theorem resetWith_fnOut (c : Config) (vs : List InVec) : (State.resetWith c vs).fnOut = none := rfl

@[simp] theorem ringWrite_astate (r : SlowRegs) (i m : Nat) : (ringWrite r i m).astate = r.astate := rfl
@[simp] theorem ringWrite_wcnt (r : SlowRegs) (i m : Nat) : (ringWrite r i m).wcnt = r.wcnt := rfl
@[simp] theorem ringWrite_raw (r : SlowRegs) (i m : Nat) : (ringWrite r i m).raw = r.raw := rfl
@[simp] theorem ringWrite_meas (r : SlowRegs) (i m : Nat) : (ringWrite r i m).meas = r.meas := rfl
@[simp] theorem ringWrite_ring (r : SlowRegs) (i m : Nat) : (ringWrite r i m).ring = r.ring.set i m := rfl
@[simp] theorem ringWrite_idx (r : SlowRegs) (i m : Nat) : (ringWrite r i m).idx = r.idx := rfl
@[simp] theorem ringWrite_sum (r : SlowRegs) (i m : Nat) : (ringWrite r i m).sum = r.sum := rfl
@[simp] theorem ringWrite_seedCnt (r : SlowRegs) (i m : Nat) : (ringWrite r i m).seedCnt = r.seedCnt := rfl
@[simp] theorem ringWrite_bank0 (r : SlowRegs) (i m : Nat) : (ringWrite r i m).bank0 = r.bank0 := rfl
@[simp] theorem ringWrite_bank1 (r : SlowRegs) (i m : Nat) : (ringWrite r i m).bank1 = r.bank1 := rfl
@[simp] theorem ringWrite_act (r : SlowRegs) (i m : Nat) : (ringWrite r i m).act = r.act := rfl
@[simp] theorem ringWrite_dispValid (r : SlowRegs) (i m : Nat) : (ringWrite r i m).dispValid = r.dispValid := rfl
@[simp] theorem ringWrite_pubVal (r : SlowRegs) (i m : Nat) : (ringWrite r i m).pubVal = r.pubVal := rfl
@[simp] theorem ringWrite_acqFault (r : SlowRegs) (i m : Nat) : (ringWrite r i m).acqFault = r.acqFault := rfl

@[simp] theorem bankWrite_astate (r : SlowRegs) (b : Bool) (ps : List SegByte) : (bankWrite r b ps).astate = r.astate := by cases b <;> rfl
@[simp] theorem bankWrite_wcnt (r : SlowRegs) (b : Bool) (ps : List SegByte) : (bankWrite r b ps).wcnt = r.wcnt := by cases b <;> rfl
@[simp] theorem bankWrite_raw (r : SlowRegs) (b : Bool) (ps : List SegByte) : (bankWrite r b ps).raw = r.raw := by cases b <;> rfl
@[simp] theorem bankWrite_meas (r : SlowRegs) (b : Bool) (ps : List SegByte) : (bankWrite r b ps).meas = r.meas := by cases b <;> rfl
@[simp] theorem bankWrite_ring (r : SlowRegs) (b : Bool) (ps : List SegByte) : (bankWrite r b ps).ring = r.ring := by cases b <;> rfl
@[simp] theorem bankWrite_idx (r : SlowRegs) (b : Bool) (ps : List SegByte) : (bankWrite r b ps).idx = r.idx := by cases b <;> rfl
@[simp] theorem bankWrite_sum (r : SlowRegs) (b : Bool) (ps : List SegByte) : (bankWrite r b ps).sum = r.sum := by cases b <;> rfl
@[simp] theorem bankWrite_seedCnt (r : SlowRegs) (b : Bool) (ps : List SegByte) : (bankWrite r b ps).seedCnt = r.seedCnt := by cases b <;> rfl
@[simp] theorem bankWrite_act (r : SlowRegs) (b : Bool) (ps : List SegByte) : (bankWrite r b ps).act = r.act := by cases b <;> rfl
@[simp] theorem bankWrite_dispValid (r : SlowRegs) (b : Bool) (ps : List SegByte) : (bankWrite r b ps).dispValid = r.dispValid := by cases b <;> rfl
@[simp] theorem bankWrite_pubVal (r : SlowRegs) (b : Bool) (ps : List SegByte) : (bankWrite r b ps).pubVal = r.pubVal := by cases b <;> rfl
@[simp] theorem bankWrite_acqFault (r : SlowRegs) (b : Bool) (ps : List SegByte) : (bankWrite r b ps).acqFault = r.acqFault := by cases b <;> rfl
@[simp] theorem bankWrite_bank0 (r : SlowRegs) (b : Bool) (ps : List SegByte) :
    (bankWrite r b ps).bank0 = if b then r.bank0 else ps := by cases b <;> rfl
@[simp] theorem bankWrite_bank1 (r : SlowRegs) (b : Bool) (ps : List SegByte) :
    (bankWrite r b ps).bank1 = if b then ps else r.bank1 := by cases b <;> rfl

@[simp] theorem filterWrite_astate (c : Config) (r : SlowRegs) (m : Nat) : (filterWrite c r m).astate = r.astate := rfl
@[simp] theorem filterWrite_wcnt (c : Config) (r : SlowRegs) (m : Nat) : (filterWrite c r m).wcnt = r.wcnt := rfl
@[simp] theorem filterWrite_raw (c : Config) (r : SlowRegs) (m : Nat) : (filterWrite c r m).raw = r.raw := rfl
@[simp] theorem filterWrite_meas (c : Config) (r : SlowRegs) (m : Nat) : (filterWrite c r m).meas = r.meas := rfl
@[simp] theorem filterWrite_ring (c : Config) (r : SlowRegs) (m : Nat) : (filterWrite c r m).ring = r.ring.set r.idx m := rfl
@[simp] theorem filterWrite_idx (c : Config) (r : SlowRegs) (m : Nat) : (filterWrite c r m).idx = (r.idx + 1) % c.window := rfl
@[simp] theorem filterWrite_sum (c : Config) (r : SlowRegs) (m : Nat) : (filterWrite c r m).sum = r.sum - ringAt r r.idx + m := rfl
@[simp] theorem filterWrite_seedCnt (c : Config) (r : SlowRegs) (m : Nat) : (filterWrite c r m).seedCnt = r.seedCnt := rfl
@[simp] theorem filterWrite_bank0 (c : Config) (r : SlowRegs) (m : Nat) : (filterWrite c r m).bank0 = r.bank0 := rfl
@[simp] theorem filterWrite_bank1 (c : Config) (r : SlowRegs) (m : Nat) : (filterWrite c r m).bank1 = r.bank1 := rfl
@[simp] theorem filterWrite_act (c : Config) (r : SlowRegs) (m : Nat) : (filterWrite c r m).act = r.act := rfl
@[simp] theorem filterWrite_dispValid (c : Config) (r : SlowRegs) (m : Nat) : (filterWrite c r m).dispValid = r.dispValid := rfl
@[simp] theorem filterWrite_pubVal (c : Config) (r : SlowRegs) (m : Nat) : (filterWrite c r m).pubVal = r.pubVal := rfl
@[simp] theorem filterWrite_acqFault (c : Config) (r : SlowRegs) (m : Nat) : (filterWrite c r m).acqFault = r.acqFault := rfl

@[simp] theorem commitEdge_cfg (s : State) (f : FastRegs) (r : SlowRegs) (set clr : Bool) : (commitEdge s f r set clr).cfg = s.cfg := rfl
@[simp] theorem commitEdge_fast (s : State) (f : FastRegs) (r : SlowRegs) (set clr : Bool) : (commitEdge s f r set clr).fast = f := rfl
@[simp] theorem commitEdge_acqPend (s : State) (f : FastRegs) (r : SlowRegs) (set clr : Bool) : (commitEdge s f r set clr).acqPend = if rstIn s then false else pendNext s.acqPend set clr := rfl
@[simp] theorem commitEdge_slow (s : State) (f : FastRegs) (r : SlowRegs) (set clr : Bool) : (commitEdge s f r set clr).slow = r := rfl
@[simp] theorem commitEdge_stim (s : State) (f : FastRegs) (r : SlowRegs) (set clr : Bool) : (commitEdge s f r set clr).stim = s.stim.tail := rfl
@[simp] theorem commitEdge_drawIdx (s : State) (f : FastRegs) (r : SlowRegs) (set clr : Bool) : (commitEdge s f r set clr).drawIdx = s.drawIdx + 1 := rfl
@[simp] theorem commitEdge_fnOut (s : State) (f : FastRegs) (r : SlowRegs) (set clr : Bool) : (commitEdge s f r set clr).fnOut = s.fnOut := rfl

@[simp] theorem withInput_cfg (s : State) (v : InVec) : (withInput s v).cfg = s.cfg := rfl
@[simp] theorem withInput_fast (s : State) (v : InVec) : (withInput s v).fast = s.fast := rfl
@[simp] theorem withInput_acqPend (s : State) (v : InVec) : (withInput s v).acqPend = s.acqPend := rfl
@[simp] theorem withInput_slow (s : State) (v : InVec) : (withInput s v).slow = s.slow := rfl
@[simp] theorem withInput_stim (s : State) (v : InVec) : (withInput s v).stim = v :: s.stim.tail := rfl
@[simp] theorem withInput_drawIdx (s : State) (v : InVec) : (withInput s v).drawIdx = s.drawIdx := rfl
@[simp] theorem withInput_fnOut (s : State) (v : InVec) : (withInput s v).fnOut = s.fnOut := rfl

end Sys2Proof.Machine
end

