-- ==== Sys2Proof/Laws/Ops.lean ====
section
/-! SUPPORT. One lemma for each shared operation that says once what it gives, for the provers to cite. -/

namespace Sys2Proof.Machine

/-- The sampled input is the first fixed vector, if there is one. -/
@[simp] theorem sampledInput_cons (s : State) (v : InVec) (vs : List InVec) (h : s.stim = v :: vs) :
    sampledInput s = v := by simp [sampledInput, h]

/-- Bit `i` of an assembled input vector (30_encoding.md R80). -/
theorem packInput_bit (r t d : Bool) (x : RawSample) (i : Nat) :
    (packInput r t d x).getLsbD i =
      if i < 10 then x.getLsbD i else if i < 11 then (BitVec.ofBool d).getLsbD (i - 10)
      else if i < 12 then (BitVec.ofBool t).getLsbD (i - 11) else (BitVec.ofBool r).getLsbD (i - 12) := by
  change ((BitVec.ofBool r ++ BitVec.ofBool t ++ BitVec.ofBool d ++ x : BitVec (1 + 1 + 1 + 10))).getLsbD i = _
  rw [BitVec.getLsbD_append, BitVec.getLsbD_append, BitVec.getLsbD_append]
  split_ifs <;> first | rfl | omega

/-- The fields of an assembled input vector (30_encoding.md R80). -/
theorem packInput_fields (r t d : Bool) (x : RawSample) :
    inRst (packInput r t d x) = r ∧ inTick (packInput r t d x) = t ∧ inDone (packInput r t d x) = d ∧
      inData (packInput r t d x) = x := by
  refine ⟨?_, ?_, ?_, BitVec.eq_of_getLsbD_eq fun i hi => ?_⟩
  · simp only [inRst, packInput_bit]; cases r <;> rfl
  · simp only [inTick, packInput_bit]; cases t <;> rfl
  · simp only [inDone, packInput_bit]; cases d <;> rfl
  · simp only [inData, BitVec.getLsbD_extractLsb', packInput_bit]; simp [hi]

/-- `clog2 x` is the least width whose values reach `x` (00_scope.md R12). -/
theorem le_two_pow_clog2 (x : Nat) : x ≤ 2 ^ clog2 x := by
  unfold clog2
  split
  · simpa using ‹x ≤ 1›
  · have := Nat.lt_log2_self (n := x - 1)
    omega

theorem lt_two_pow_bits {n x : Nat} (h : n < x) : n < 2 ^ bits x := by
  have h1 := le_two_pow_clog2 x
  have h2 : 2 ^ clog2 x ≤ 2 ^ bits x := Nat.pow_le_pow_right (by decide) (Nat.le_max_right _ _)
  omega

theorem clog2_le {x w : Nat} (h : x ≤ 2 ^ w) : clog2 x ≤ w := by
  unfold clog2
  split
  · omega
  · have : Nat.log2 (x - 1) < w := (Nat.log2_lt (by omega)).2 (by omega)
    omega

/-- A legal configuration's parameters lie in the ranges of 00_scope.md R10. -/
theorem legal_ranges {c : Config} (h : c.Legal) :
    1 ≤ c.digits ∧ c.digits ≤ 8 ∧ 1 ≤ c.window ∧ 1 ≤ c.onTicks ∧ 1 ≤ c.blankTicks ∧ 1 ≤ c.cadence ∧
      1 ≤ c.refScale ∧ 1 ≤ c.fullScale ∧ c.segTable.length = 10 ∧ c.adcChannel < 8 := by
  unfold Config.Legal Config.check chW at h
  split_ifs at h
  omega

theorem ringAt_ringWrite (r : SlowRegs) (i m j : Nat) (h : i < r.ring.length) :
    ringAt (ringWrite r i m) j = if j = i then m else ringAt r j := by
  simp only [ringAt, ringWrite_ring, List.getD_eq_getElem?_getD, List.getElem?_set, eq_comm (a := i)]
  split_ifs <;> simp

/-- Storage writes keep the sizes of the arrays. -/
theorem ringWrite_length (r : SlowRegs) (i m : Nat) : (ringWrite r i m).ring.length = r.ring.length := by simp

theorem bankOf_bankWrite (r : SlowRegs) (b b' : Bool) (ps : List SegByte) :
    bankOf (bankWrite r b ps) b' = if b' = b then ps else bankOf r b' := by
  cases b <;> cases b' <;> rfl

/-- The sum of a list with one entry replaced. -/
theorem sum_set_add (l : List Nat) (i m : Nat) (h : i < l.length) : (l.set i m).sum + l.getD i 0 = l.sum + m := by
  induction l generalizing i with
  | nil => simp at h
  | cons a l ih =>
    cases i with
    | zero => simp; omega
    | succ i =>
      have := ih i (by simpa using h)
      simp only [List.set_cons_succ, List.sum_cons, List.getD_cons_succ]
      omega

theorem getD_le_sum (l : List Nat) (i : Nat) : l.getD i 0 ≤ l.sum := by
  induction l generalizing i with
  | nil => simp
  | cons a l ih =>
    cases i with
    | zero => simp
    | succ i => have := ih i; simp only [List.getD_cons_succ, List.sum_cons]; omega

/-- FILTER_WRITE keeps `sum` the sum of the ring (41_moving_average_filter.md R122). -/
theorem filterWrite_sum_eq (c : Config) (r : SlowRegs) (m : Nat) (hs : r.sum = r.ring.sum) (hi : r.idx < r.ring.length) :
    (filterWrite c r m).sum = (filterWrite c r m).ring.sum := by
  have h1 := sum_set_add r.ring r.idx m hi
  have h2 := getD_le_sum r.ring r.idx
  simp only [filterWrite_sum, filterWrite_ring, ringAt, hs]
  omega

theorem scaleClamp_le (c : Config) (x : RawSample) : scaleClamp c x ≤ 9999 := Nat.min_le_right _ _

theorem digitPatterns_length (c : Config) (v : Nat) : (digitPatterns c v).length = c.digits := by simp [digitPatterns]

theorem decSplit_length (c : Config) (v : Nat) : (decSplit c v).length = c.digits := by simp [decSplit]

/-- `pend` after an edge without a set: held, or cleared by the launch (44_acquisition_and_digit_buffer.md R221). -/
@[simp] theorem pendNext_hold (p : Bool) : pendNext p false false = p := by cases p <;> rfl
@[simp] theorem pendNext_clear (p : Bool) : pendNext p false true = false := by cases p <;> rfl
@[simp] theorem pendNext_set (p c : Bool) : pendNext p true c = true := by cases p <;> cases c <;> rfl

/-- The select-vector code of a slow-path state is its own (10_state.md R29). -/
theorem astateOfCode_code (a : AState) : astateOfCode (astateCode a) = a := by cases a <;> decide

/-- The largest non-zero digit's index: everything above `msd` is zero, and `msd` is not, unless it is 0
(44_acquisition_and_digit_buffer.md R216). -/
theorem lt_msd_iff (ds : List Nat) (i : Nat) : msd ds < i ↔ 0 < i ∧ ∀ j, i ≤ j → ds.getD j 0 = 0 := by
  induction ds generalizing i with
  | nil => simp [msd]
  | cons d ds ih =>
    cases i with
    | zero => simp
    | succ i =>
      rw [msd]
      constructor
      · intro h
        refine ⟨by omega, fun j hj => ?_⟩
        obtain ⟨j, rfl⟩ : ∃ k, j = k + 1 := ⟨j - 1, by omega⟩
        rw [List.getD_cons_succ]
        split at h
        · exact ((ih i).1 (by omega)).2 j (by omega)
        · rename_i hn
          by_cases hj' : j < ds.length
          · rw [List.getD_eq_getElem _ _ hj']
            exact (show ∀ x ∈ ds, x = 0 by simpa using hn) _ (List.getElem_mem hj')
          · simp [List.getD_eq_getElem?_getD, List.getElem?_eq_none (by omega : ds.length ≤ j)]
      · rintro ⟨-, h⟩
        have h' : ∀ j, i ≤ j → ds.getD j 0 = 0 := fun j hj => by simpa using h (j + 1) (by omega)
        split
        · rename_i ha
          have : msd ds < i := by
            rcases Nat.eq_zero_or_pos i with rfl | hi
            · obtain ⟨x, hx, hne⟩ := List.any_eq_true.1 ha
              obtain ⟨k, hk, rfl⟩ := List.getElem_of_mem hx
              have := h' k (by omega)
              rw [List.getD_eq_getElem _ _ hk] at this
              simp [this] at hne
            · exact (ih i).2 ⟨hi, h'⟩
          omega
        · omega

end Sys2Proof.Machine
end

