-- ==== Sys2Proof/Laws/PerInstr.lean ====
section
/-! SUPPORT. A statement about every operation, one lemma for each constructor of Instr: a well-formed operation's word
fits the width of its format (30_encoding.md R71, R73, R78). -/

namespace Sys2Proof.Laws

/-- The word of a well-formed operation has no bit above its format's width. -/
def EncodeFits.Statement (i : Instr) : Prop :=
  ∀ c : Config, i.wf c = true → encodeWord i < 2 ^ formatWidth c (formatOf i)

theorem EncodeFits.segEncode : ∀ d dp, EncodeFits.Statement (.segEncode d dp) := fun d dp _ _ => by
  have := d.isLt
  cases dp <;> simp [encodeWord, formatWidth, formatOf] <;> omega
theorem EncodeFits.acqSeed : EncodeFits.Statement .acqSeed := fun _ _ => by simp [encodeWord, formatWidth, formatOf]
theorem EncodeFits.acqSeedLast : EncodeFits.Statement .acqSeedLast := fun _ _ => by simp [encodeWord, formatWidth, formatOf]
theorem EncodeFits.acqUpdate : EncodeFits.Statement .acqUpdate := fun _ _ => by simp [encodeWord, formatWidth, formatOf]
theorem EncodeFits.average : ∀ n, EncodeFits.Statement (.average n) := fun _ _ h => of_decide_eq_true h
theorem EncodeFits.scaleClamp : ∀ x, EncodeFits.Statement (.scaleClamp x) := fun x _ _ => x.isLt
theorem EncodeFits.acqScale : EncodeFits.Statement .acqScale := fun _ _ => by simp [encodeWord, formatWidth, formatOf]
theorem EncodeFits.decSplit : ∀ v, EncodeFits.Statement (.decSplit v) := fun x _ _ => x.isLt
theorem EncodeFits.schReset : EncodeFits.Statement .schReset := fun _ _ => by simp [encodeWord, formatWidth, formatOf]
theorem EncodeFits.schWaitValid : EncodeFits.Statement .schWaitValid := fun _ _ => by simp [encodeWord, formatWidth, formatOf]
theorem EncodeFits.schNoTick : EncodeFits.Statement .schNoTick := fun _ _ => by simp [encodeWord, formatWidth, formatOf]
theorem EncodeFits.schDwell : EncodeFits.Statement .schDwell := fun _ _ => by simp [encodeWord, formatWidth, formatOf]
theorem EncodeFits.schBlankToShow : EncodeFits.Statement .schBlankToShow := fun _ _ => by simp [encodeWord, formatWidth, formatOf]
theorem EncodeFits.schShowToBlank : EncodeFits.Statement .schShowToBlank := fun _ _ => by simp [encodeWord, formatWidth, formatOf]
theorem EncodeFits.acqReset : EncodeFits.Statement .acqReset := fun _ _ => by simp [encodeWord, formatWidth, formatOf]
theorem EncodeFits.acqIdle : EncodeFits.Statement .acqIdle := fun _ _ => by simp [encodeWord, formatWidth, formatOf]
theorem EncodeFits.acqLaunch : EncodeFits.Statement .acqLaunch := fun _ _ => by simp [encodeWord, formatWidth, formatOf]
theorem EncodeFits.acqStart : EncodeFits.Statement .acqStart := fun _ _ => by simp [encodeWord, formatWidth, formatOf]
theorem EncodeFits.acqPoll : EncodeFits.Statement .acqPoll := fun _ _ => by simp [encodeWord, formatWidth, formatOf]
theorem EncodeFits.acqCapture : EncodeFits.Statement .acqCapture := fun _ _ => by simp [encodeWord, formatWidth, formatOf]
theorem EncodeFits.acqTimeout : EncodeFits.Statement .acqTimeout := fun _ _ => by simp [encodeWord, formatWidth, formatOf]
theorem EncodeFits.acqReservedState : EncodeFits.Statement .acqReservedState := fun _ _ => by simp [encodeWord, formatWidth, formatOf]
theorem EncodeFits.digitPatterns : ∀ v, EncodeFits.Statement (.digitPatterns v) := fun x _ _ => x.isLt
theorem EncodeFits.acqBuild : EncodeFits.Statement .acqBuild := fun _ _ => by simp [encodeWord, formatWidth, formatOf]
theorem EncodeFits.acqPublish : EncodeFits.Statement .acqPublish := fun _ _ => by simp [encodeWord, formatWidth, formatOf]

end Sys2Proof.Laws
end

