-- ==== Sys2Proof/Laws/Select.lean ====
section
/-! SUPPORT. Which operation each agent selects, in terms of its signals, and what one step can do. -/

namespace Sys2Proof.Machine

/-- The bits of an assembled `SSEL` (30_encoding.md R71). -/
theorem packSsel_bits (r v t p l : Bool) :
    (packSsel r v t p l).getLsbD 4 = r ∧ (packSsel r v t p l).getLsbD 3 = v ∧ (packSsel r v t p l).getLsbD 2 = t ∧
      (packSsel r v t p l).getLsbD 1 = p ∧ (packSsel r v t p l).getLsbD 0 = l := by revert r v t p l; decide

/-- The fields of an assembled `ASEL` (30_encoding.md R73). -/
theorem packAsel_bits (r : Bool) (a : BitVec 3) (g d t sd sl : Bool) :
    (packAsel r a g d t sd sl).getLsbD 8 = r ∧ (packAsel r a g d t sd sl).extractLsb' 5 3 = a ∧
      (packAsel r a g d t sd sl).getLsbD 4 = g ∧ (packAsel r a g d t sd sl).getLsbD 3 = d ∧
      (packAsel r a g d t sd sl).getLsbD 2 = t ∧ (packAsel r a g d t sd sl).getLsbD 1 = sd ∧
      (packAsel r a g d t sd sl).getLsbD 0 = sl := by
  revert a; cases r <;> cases g <;> cases d <;> cases t <;> cases sd <;> cases sl <;> decide

theorem decodeSsel_pack (r v t p l : Bool) :
    decodeSsel (packSsel r v t p l) =
      some (if r then .schReset else if !v then .schWaitValid else if !t then .schNoTick
        else if !l then .schDwell else if !p then .schBlankToShow else .schShowToBlank) := by
  revert r v t p l; decide

theorem decodeAsel_pack (r : Bool) (a : AState) (g d t sd sl : Bool) :
    decodeAsel (packAsel r (astateCode a) g d t sd sl) =
      some (if r then .acqReset else
        match a with
        | .idle => if g then .acqLaunch else .acqIdle
        | .start => .acqStart
        | .wait => if d then .acqCapture else if t then .acqTimeout else .acqPoll
        | .scale => .acqScale
        | .filter => if !sd then .acqUpdate else if sl then .acqSeedLast else .acqSeed
        | .build => .acqBuild
        | .publish => .acqPublish
        | .reserved => .acqReservedState) := by
  cases a <;> revert r g d t sd sl <;> decide

/-- The fast path's operation in terms of its signals. -/
theorem fastOp_eq (s : State) :
    fastOp s = some (if rstIn s then .schReset else if !s.slow.dispValid then .schWaitValid
      else if !tickIn s then .schNoTick else if !last s then .schDwell
      else if !phaseBit s.fast.phase then .schBlankToShow else .schShowToBlank) :=
  decodeSsel_pack _ _ _ _ _

/-- The slow path's operation in terms of its signals. -/
theorem slowOp_eq (s : State) :
    slowOp s = some (if rstIn s then .acqReset else
        match s.slow.astate with
        | .idle => if go s then .acqLaunch else .acqIdle
        | .start => .acqStart
        | .wait => if doneIn s then .acqCapture else if tmo s then .acqTimeout else .acqPoll
        | .scale => .acqScale
        | .filter => if !seeding s then .acqUpdate else if seedLast s then .acqSeedLast else .acqSeed
        | .build => .acqBuild
        | .publish => .acqPublish
        | .reserved => .acqReservedState) :=
  decodeAsel_pack _ _ _ _ _ _ _

/-- The operations the fast path can select. -/
theorem fastOp_mem (s : State) :
    ∃ f, fastOp s = some f ∧ (f = .schReset ∨ f = .schWaitValid ∨ f = .schNoTick ∨ f = .schDwell ∨
      f = .schBlankToShow ∨ f = .schShowToBlank) := by
  refine ⟨_, fastOp_eq s, ?_⟩
  split_ifs <;> simp

/-- Every meaning answers a next state. -/
theorem exec_next (i : Instr) (s : State) : ∃ t, exec i s = .next t := by
  cases i <;> exact ⟨_, rfl⟩

/-- What one step does: the configuration is legal, each agent selects an operation, and the two next states of those
operations are committed together. -/
theorem step_cases {s t : State} (h : step s = .next t) :
    s.cfg.Legal ∧ ∃ f a tf ta, fastOp s = some f ∧ slowOp s = some a ∧ exec f s = .next tf ∧ exec a s = .next ta ∧
      t = commitEdge s tf.fast ta.slow (schedSet f s) (acqClr a) := by
  unfold step at h
  split at h
  · cases h
  · rename_i hc
    split at h
    · rename_i f a hf ha
      obtain ⟨tf, htf⟩ := exec_next f s
      obtain ⟨ta, hta⟩ := exec_next a s
      rw [htf, hta] at h
      exact ⟨hc, f, a, tf, ta, hf, ha, htf, hta, by simpa [joinEdge] using h.symm⟩
    · cases h

/-- The step of a legal configuration, from its two operations. -/
theorem step_eq {s tf ta : State} {f a : Instr} (hc : s.cfg.Legal) (hf : fastOp s = some f) (ha : slowOp s = some a)
    (htf : exec f s = .next tf) (hta : exec a s = .next ta) :
    step s = .next (commitEdge s tf.fast ta.slow (schedSet f s) (acqClr a)) := by
  unfold step
  rw [hc]
  simp [hf, ha, htf, hta, joinEdge]

/-- A step of a legal configuration completes. -/
theorem step_completes {s : State} (hc : s.cfg.Legal) : ∃ t, step s = .next t := by
  obtain ⟨f, hf, -⟩ := fastOp_mem s
  obtain ⟨tf, htf⟩ := exec_next f s
  obtain ⟨ta, hta⟩ := exec_next _ s
  exact ⟨_, step_eq hc hf (slowOp_eq s) htf hta⟩

end Sys2Proof.Machine
end

