-- ==== Sys2Proof/Laws/Step.lean ====
section
/-! SUPPORT. The registers after one edge, agent by agent, in terms of the registers before it and the inputs; and runs of
several edges. -/

namespace Sys2Proof.Machine

theorem phaseLen_eq (s : State) : phaseLen s = if s.fast.phase = .lit then s.cfg.onTicks else s.cfg.blankTicks := by
  unfold phaseLen; cases s.fast.phase <;> simp

theorem phaseBit_eq (p : Phase) : phaseBit p = decide (p = .lit) := by cases p <;> rfl

/-- The fast path's registers after an edge at `s`. -/
def fastAfter (s : State) : FastRegs :=
      if rstIn s then FastRegs.reset
      else if s.slow.dispValid = false ∨ tickIn s = false then s.fast
      else if s.fast.dwell + 1 ≠ phaseLen s then { s.fast with dwell := s.fast.dwell + 1 }
      else if s.fast.phase = .blank then
        { s.fast with seg := bankAt s.slow s.slow.act s.fast.pos, digEn := onehot s.fast.pos, phase := .lit, dwell := 0 }
      else
        { s.fast with digEn := 0, seg := 0, phase := .blank, dwell := 0,
                      pos := (s.fast.pos + 1) % s.cfg.digits, cyc := cycAfterShow s }

/-- The slow path's registers after an edge at `s`. -/
def slowAfter (s : State) : SlowRegs :=
      if rstIn s then SlowRegs.reset s.cfg
      else match s.slow.astate with
        | .idle => if s.slow.seedCnt < s.cfg.window ∨ s.acqPend = true then { s.slow with astate := .start } else s.slow
        | .start => { s.slow with wcnt := 0, astate := .wait }
        | .wait =>
          if doneIn s then { s.slow with raw := dataIn s, acqFault := false, astate := .scale }
          else if 0 < s.cfg.adcTimeout ∧ s.slow.wcnt = s.cfg.adcTimeout - 1 then
            { s.slow with acqFault := true, wcnt := 0, astate := .idle }
          else { s.slow with wcnt := if 0 < s.cfg.adcTimeout then s.slow.wcnt + 1 else s.slow.wcnt }
        | .scale => { s.slow with meas := scaleClamp s.cfg s.slow.raw, astate := .filter }
        | .filter =>
          if ¬ s.slow.seedCnt < s.cfg.window then { filterWrite s.cfg s.slow s.slow.meas with astate := .build }
          else if s.slow.seedCnt + 1 = s.cfg.window then
            { filterWrite s.cfg s.slow s.slow.meas with seedCnt := s.cfg.window, astate := .build }
          else { filterWrite s.cfg s.slow s.slow.meas with seedCnt := s.slow.seedCnt + 1, astate := .idle }
        | .build =>
          { bankWrite s.slow (!s.slow.act) (digitPatterns s.cfg (average s.cfg s.slow.sum)) with astate := .publish }
        | .publish =>
          { s.slow with act := !s.slow.act, dispValid := true, pubVal := average s.cfg s.slow.sum, astate := .idle }
        | .reserved => { s.slow with astate := .idle }

theorem step_fast {s t : State} (h : step s = .next t) : t.fast = fastAfter s := by
  unfold fastAfter
  obtain ⟨-, f, a, tf, ta, hf, -, htf, -, rfl⟩ := step_cases h
  rw [fastOp_eq, Option.some.injEq] at hf
  rw [commitEdge_fast]
  subst hf
  cases hr : rstIn s
  · cases hv : s.slow.dispValid
    · simp only [hr, hv] at htf; cases htf; simp
    · cases ht : tickIn s
      · simp only [hr, hv, ht] at htf; cases htf; simp
      · by_cases hl : s.fast.dwell + 1 = phaseLen s
        · cases hp : s.fast.phase
          · simp only [hr, hv, ht, last, hl, hp, phaseBit] at htf; cases htf; simp [hl]
          · simp only [hr, hv, ht, last, hl, hp, phaseBit] at htf; cases htf; simp [hl]
        · simp [hr, hv, ht, last, hl] at htf; cases htf; simp [hl]
  · simp only [hr] at htf; cases htf; simp

theorem step_slow {s t : State} (h : step s = .next t) : t.slow = slowAfter s := by
  unfold slowAfter
  obtain ⟨-, f, a, tf, ta, -, ha, -, hta, rfl⟩ := step_cases h
  rw [slowOp_eq, Option.some.injEq] at ha
  rw [commitEdge_slow]
  subst ha
  cases hr : rstIn s
  · cases hs : s.slow.astate
    · by_cases hg : s.slow.seedCnt < s.cfg.window ∨ s.acqPend = true
      · have : go s = true := by simpa [go, seeding] using hg
        simp only [hr, hs, this] at hta; cases hta; simp [hg]
      · have : go s = false := by simpa [go, seeding] using hg
        simp only [hr, hs, this] at hta; cases hta; simp [hg]
    · simp only [hr, hs] at hta; cases hta; simp
    · cases hd : doneIn s
      · by_cases ht : 0 < s.cfg.adcTimeout ∧ s.slow.wcnt = s.cfg.adcTimeout - 1
        · have : tmo s = true := by simpa [tmo] using ht
          simp only [hr, hs, hd, this] at hta; cases hta; simp [ht]
        · have : tmo s = false := by simpa [tmo] using ht
          simp only [hr, hs, hd, this] at hta; cases hta; simp only [if_neg ht]; simp
      · simp only [hr, hs, hd] at hta; cases hta; simp
    · simp only [hr, hs] at hta; cases hta; simp
    · by_cases hw : s.slow.seedCnt < s.cfg.window
      · have h1 : seeding s = true := by simpa [seeding] using hw
        by_cases hl : s.slow.seedCnt + 1 = s.cfg.window
        · have : seedLast s = true := by simpa [seedLast] using hl
          simp only [hr, hs, h1, this] at hta; cases hta; simp [hw, hl]
        · have : seedLast s = false := by simpa [seedLast] using hl
          simp only [hr, hs, h1, this] at hta; cases hta; simp [hw, hl]
      · have h1 : seeding s = false := by simpa [seeding] using hw
        simp only [hr, hs, h1] at hta; cases hta; simp [hw]
    · simp only [hr, hs] at hta; cases hta; simp
    · simp only [hr, hs] at hta; cases hta; simp
    · simp only [hr, hs] at hta; cases hta; simp
  · simp only [hr] at hta; cases hta; simp

theorem slowAfter_rst {s : State} (h : rstIn s = true) : slowAfter s = SlowRegs.reset s.cfg := by
  simp [slowAfter, h]
theorem slowAfter_launch {s : State} (h : rstIn s = false) (ha : s.slow.astate = .idle)
    (hg : s.slow.seedCnt < s.cfg.window ∨ s.acqPend = true) : slowAfter s = { s.slow with astate := .start } := by
  simp [slowAfter, h, ha, hg]
theorem slowAfter_idle {s : State} (h : rstIn s = false) (ha : s.slow.astate = .idle)
    (hg : ¬ (s.slow.seedCnt < s.cfg.window ∨ s.acqPend = true)) : slowAfter s = s.slow := by
  simp [slowAfter, h, ha, hg]
theorem slowAfter_start {s : State} (h : rstIn s = false) (ha : s.slow.astate = .start) :
    slowAfter s = { s.slow with wcnt := 0, astate := .wait } := by
  simp [slowAfter, h, ha]
theorem slowAfter_capture {s : State} (h : rstIn s = false) (ha : s.slow.astate = .wait) (hd : doneIn s = true) :
    slowAfter s = { s.slow with raw := dataIn s, acqFault := false, astate := .scale } := by
  simp [slowAfter, h, ha, hd]
theorem slowAfter_timeout {s : State} (h : rstIn s = false) (ha : s.slow.astate = .wait) (hd : doneIn s = false)
    (ht : 0 < s.cfg.adcTimeout ∧ s.slow.wcnt = s.cfg.adcTimeout - 1) :
    slowAfter s = { s.slow with acqFault := true, wcnt := 0, astate := .idle } := by
  simp [slowAfter, h, ha, hd, ht]
theorem slowAfter_poll {s : State} (h : rstIn s = false) (ha : s.slow.astate = .wait) (hd : doneIn s = false)
    (ht : ¬ (0 < s.cfg.adcTimeout ∧ s.slow.wcnt = s.cfg.adcTimeout - 1)) :
    slowAfter s = { s.slow with wcnt := if 0 < s.cfg.adcTimeout then s.slow.wcnt + 1 else s.slow.wcnt } := by
  simp only [slowAfter, h, ha, hd, if_neg ht]; simp
theorem slowAfter_scale {s : State} (h : rstIn s = false) (ha : s.slow.astate = .scale) :
    slowAfter s = { s.slow with meas := scaleClamp s.cfg s.slow.raw, astate := .filter } := by
  simp [slowAfter, h, ha]
theorem slowAfter_update {s : State} (h : rstIn s = false) (ha : s.slow.astate = .filter)
    (hw : ¬ s.slow.seedCnt < s.cfg.window) :
    slowAfter s = { filterWrite s.cfg s.slow s.slow.meas with astate := .build } := by
  simp [slowAfter, h, ha, hw]
theorem slowAfter_seedLast {s : State} (h : rstIn s = false) (ha : s.slow.astate = .filter)
    (hw : s.slow.seedCnt + 1 = s.cfg.window) :
    slowAfter s = { filterWrite s.cfg s.slow s.slow.meas with seedCnt := s.cfg.window, astate := .build } := by
  have h1 : s.slow.seedCnt < s.cfg.window := by omega
  simp [slowAfter, h, ha, h1, hw]
theorem slowAfter_seed {s : State} (h : rstIn s = false) (ha : s.slow.astate = .filter)
    (hw : s.slow.seedCnt + 1 < s.cfg.window) :
    slowAfter s = { filterWrite s.cfg s.slow s.slow.meas with seedCnt := s.slow.seedCnt + 1, astate := .idle } := by
  have h1 : s.slow.seedCnt < s.cfg.window := by omega
  have h2 : ¬ s.slow.seedCnt + 1 = s.cfg.window := by omega
  simp [slowAfter, h, ha, h1, h2]
theorem slowAfter_build {s : State} (h : rstIn s = false) (ha : s.slow.astate = .build) :
    slowAfter s =
      { bankWrite s.slow (!s.slow.act) (digitPatterns s.cfg (average s.cfg s.slow.sum)) with astate := .publish } := by
  simp [slowAfter, h, ha]
theorem slowAfter_publish {s : State} (h : rstIn s = false) (ha : s.slow.astate = .publish) :
    slowAfter s =
      { s.slow with act := !s.slow.act, dispValid := true, pubVal := average s.cfg s.slow.sum, astate := .idle } := by
  simp [slowAfter, h, ha]
theorem slowAfter_reserved {s : State} (h : rstIn s = false) (ha : s.slow.astate = .reserved) :
    slowAfter s = { s.slow with astate := .idle } := by
  simp [slowAfter, h, ha]

/-- The thirteen things an edge can do to the slow path's registers. -/
theorem slowAfter_cases (s : State) :
    (rstIn s = true ∧ slowAfter s = SlowRegs.reset s.cfg) ∨ (rstIn s = false ∧
      ((s.slow.astate = .idle ∧ (s.slow.seedCnt < s.cfg.window ∨ s.acqPend = true) ∧
          slowAfter s = { s.slow with astate := .start }) ∨
        (s.slow.astate = .idle ∧ ¬ (s.slow.seedCnt < s.cfg.window ∨ s.acqPend = true) ∧ slowAfter s = s.slow) ∨
        (s.slow.astate = .start ∧ slowAfter s = { s.slow with wcnt := 0, astate := .wait }) ∨
        (s.slow.astate = .wait ∧ doneIn s = true ∧
          slowAfter s = { s.slow with raw := dataIn s, acqFault := false, astate := .scale }) ∨
        (s.slow.astate = .wait ∧ doneIn s = false ∧ (0 < s.cfg.adcTimeout ∧ s.slow.wcnt = s.cfg.adcTimeout - 1) ∧
          slowAfter s = { s.slow with acqFault := true, wcnt := 0, astate := .idle }) ∨
        (s.slow.astate = .wait ∧ doneIn s = false ∧ ¬ (0 < s.cfg.adcTimeout ∧ s.slow.wcnt = s.cfg.adcTimeout - 1) ∧
          slowAfter s = { s.slow with wcnt := if 0 < s.cfg.adcTimeout then s.slow.wcnt + 1 else s.slow.wcnt }) ∨
        (s.slow.astate = .scale ∧
          slowAfter s = { s.slow with meas := scaleClamp s.cfg s.slow.raw, astate := .filter }) ∨
        (s.slow.astate = .filter ∧ ¬ s.slow.seedCnt < s.cfg.window ∧
          slowAfter s = { filterWrite s.cfg s.slow s.slow.meas with astate := .build }) ∨
        (s.slow.astate = .filter ∧ s.slow.seedCnt + 1 = s.cfg.window ∧
          slowAfter s =
            { filterWrite s.cfg s.slow s.slow.meas with seedCnt := s.cfg.window, astate := .build }) ∨
        (s.slow.astate = .filter ∧ s.slow.seedCnt + 1 < s.cfg.window ∧
          slowAfter s =
            { filterWrite s.cfg s.slow s.slow.meas with seedCnt := s.slow.seedCnt + 1, astate := .idle }) ∨
        (s.slow.astate = .build ∧
          slowAfter s = { bankWrite s.slow (!s.slow.act) (digitPatterns s.cfg (average s.cfg s.slow.sum)) with
            astate := .publish }) ∨
        (s.slow.astate = .publish ∧
          slowAfter s = { s.slow with
            act := !s.slow.act, dispValid := true, pubVal := average s.cfg s.slow.sum, astate := .idle }) ∨
        (s.slow.astate = .reserved ∧ slowAfter s = { s.slow with astate := .idle }))) := by
  rcases hr : rstIn s with _ | _
  · refine .inr ⟨rfl, ?_⟩
    rcases ha : s.slow.astate
    · by_cases hg : s.slow.seedCnt < s.cfg.window ∨ s.acqPend = true
      · simp [hg, slowAfter_launch hr ha hg]
      · simp [hg, slowAfter_idle hr ha hg]
    · simp [slowAfter_start hr ha]
    · rcases hd : doneIn s with _ | _
      · by_cases ht : 0 < s.cfg.adcTimeout ∧ s.slow.wcnt = s.cfg.adcTimeout - 1
        · rw [slowAfter_timeout hr ha hd ht]; simp [ht]
        · rw [slowAfter_poll hr ha hd ht]; simp only [ht]; simp
      · simp [slowAfter_capture hr ha hd]
    · simp [slowAfter_scale hr ha]
    · rcases lt_trichotomy (s.slow.seedCnt + 1) s.cfg.window with h | h | h
      · simp [slowAfter_seed hr ha h, h]
      · simp [slowAfter_seedLast hr ha h, h]
      · have hw : ¬ s.slow.seedCnt < s.cfg.window := by omega
        simp [slowAfter_update hr ha hw, hw]
    · simp [slowAfter_build hr ha]
    · simp [slowAfter_publish hr ha]
    · simp [slowAfter_reserved hr ha]
  · exact .inl ⟨rfl, slowAfter_rst hr⟩

/-- The five things an edge can do to the fast path's registers. -/
theorem fastAfter_cases (s : State) :
    (rstIn s = true ∧ fastAfter s = FastRegs.reset) ∨ (rstIn s = false ∧
      (((s.slow.dispValid = false ∨ tickIn s = false) ∧ fastAfter s = s.fast) ∨
        (s.slow.dispValid = true ∧ tickIn s = true ∧ s.fast.dwell + 1 ≠ phaseLen s ∧
          fastAfter s = { s.fast with dwell := s.fast.dwell + 1 }) ∨
        (s.slow.dispValid = true ∧ tickIn s = true ∧ s.fast.dwell + 1 = phaseLen s ∧ s.fast.phase = .blank ∧
          fastAfter s = { s.fast with
            seg := bankAt s.slow s.slow.act s.fast.pos, digEn := onehot s.fast.pos, phase := .lit, dwell := 0 }) ∨
        (s.slow.dispValid = true ∧ tickIn s = true ∧ s.fast.dwell + 1 = phaseLen s ∧ s.fast.phase = .lit ∧
          fastAfter s = { s.fast with
            digEn := 0, seg := 0, phase := .blank, dwell := 0,
            pos := (s.fast.pos + 1) % s.cfg.digits, cyc := cycAfterShow s }))) := by
  unfold fastAfter
  rcases hr : rstIn s with _ | _
  · rcases hv : s.slow.dispValid with _ | _
    · simp
    · rcases ht : tickIn s with _ | _
      · simp
      · by_cases hl : s.fast.dwell + 1 = phaseLen s
        · rcases hp : s.fast.phase <;> simp [hl]
        · simp [hl]
  · simp

/-- `acq_pend` after an edge (44_acquisition_and_digit_buffer.md R221). -/
theorem step_pend {s t : State} (h : step s = .next t) :
    t.acqPend =
      (!rstIn s && (decide (s.slow.dispValid = true ∧ tickIn s = true ∧ s.fast.phase = .lit ∧
          s.fast.dwell + 1 = s.cfg.onTicks ∧ s.fast.pos = s.cfg.digits - 1 ∧ s.fast.cyc = s.cfg.cadence - 1) ||
        (s.acqPend && decide (s.slow.astate ≠ .idle)))) := by
  obtain ⟨-, f, a, tf, ta, hf, ha, -, -, rfl⟩ := step_cases h
  rw [fastOp_eq, Option.some.injEq] at hf
  rw [slowOp_eq, Option.some.injEq] at ha
  rw [commitEdge_acqPend]
  cases hr : rstIn s
  · have h1 : schedSet f s = decide (s.slow.dispValid = true ∧ tickIn s = true ∧ s.fast.phase = .lit ∧
          s.fast.dwell + 1 = s.cfg.onTicks ∧ s.fast.pos = s.cfg.digits - 1 ∧ s.fast.cyc = s.cfg.cadence - 1) := by
      subst hf
      cases hv : s.slow.dispValid <;> cases ht : tickIn s <;> cases hp : s.fast.phase <;>
        simp [schedSet, requestAfterShow, cycleEnds, cadenceEnds, hr, last, phaseLen, hp, phaseBit]
      all_goals split_ifs <;> simp_all
    have h2 : (s.acqPend && !acqClr a) = (s.acqPend && decide (s.slow.astate ≠ .idle)) := by
      subst ha
      cases hq : s.acqPend
      · rfl
      · cases hs : s.slow.astate <;> simp [acqClr, hr, go, hq]
        all_goals split_ifs <;> simp
    simp only [pendNext, h1, h2]
    simp
  · simp

/-- What an edge does to the fields that are the model's own. -/
theorem step_frame {s t : State} (h : step s = .next t) :
    t.cfg = s.cfg ∧ t.stim = s.stim.tail ∧ t.drawIdx = s.drawIdx + 1 ∧ t.fnOut = s.fnOut := by
  obtain ⟨-, f, a, tf, ta, -, -, -, -, rfl⟩ := step_cases h
  exact ⟨rfl, rfl, rfl, rfl⟩

/-- A run's first edge. -/
theorem runEdges_succ {s t : State} (n : Nat) (h : step s = .next t) : runEdges (n + 1) s = runEdges n t := by
  simp only [runEdges, h]

@[simp] theorem runEdges_zero (s : State) : runEdges 0 s = .next s := rfl

/-- Runs compose. -/
theorem runEdges_add (m n : Nat) (s t : State) (h : runEdges m s = .next t) : runEdges (m + n) s = runEdges n t := by
  induction m generalizing s with
  | zero =>
    have : s = t := by simpa [runEdges] using h
    rw [this, Nat.zero_add]
  | succ m ih =>
    rw [Nat.succ_add]
    simp only [runEdges] at h ⊢
    cases hs : step s with
    | next u => rw [hs] at h; exact ih u h
    | fault e => exact nomatch e
    | refused e => rw [hs] at h; cases h

theorem runEdges_one (s : State) : runEdges 1 s = step s := by
  simp only [runEdges]; cases step s <;> rfl

/-- A run of a legal configuration completes and keeps the configuration, whatever its inputs. -/
theorem runEdges_completes (n : Nat) (s : State) (hc : s.cfg.Legal) :
    ∃ t, runEdges n s = .next t ∧ t.cfg = s.cfg ∧ t.stim = s.stim.drop n := by
  induction n generalizing s with
  | zero => exact ⟨s, rfl, rfl, rfl⟩
  | succ n ih =>
    obtain ⟨u, hu⟩ := step_completes hc
    obtain ⟨h1, h2, -, -⟩ := step_frame hu
    obtain ⟨t, ht, hcfg, hst⟩ := ih u (by rw [h1]; exact hc)
    refine ⟨t, by simp only [runEdges, hu]; exact ht, by rw [hcfg, h1], ?_⟩
    rw [hst, h2, List.drop_tail]

end Sys2Proof.Machine
end

