-- ==== Sys2Proof/Machine/Stimulus.lean ====
section
/-! DEFINITION. The textual syntax of stimulus programs (30_encoding.md R81), read from lists of characters. Blanks separate
words and are otherwise ignored, and numbers are plain decimal: the rule leaves both unsaid (log 21, DESIGN CHOICE). -/

namespace Sys2Proof.Machine

/-- Why the text of a stimulus program is rejected. -/
inductive StimError where
  /-- The line of this number, counted from 0, has not the form of R81. -/
  | badLine (n : Nat)
  deriving DecidableEq, Repr

/-- A line without its comment: what stands before the first `;`. -/
def stripComment : List Char → List Char
  | [] => []
  | c :: cs => if c = ';' then [] else c :: stripComment cs

/-- A word as a list of at most one word. -/
def flushWord (w : List Char) : List (List Char) := if w = [] then [] else [w]

/-- The words of a line; `*` is a word of its own. `w` is the word being read. -/
def lexLine (w : List Char) : List Char → List (List Char)
  | [] => flushWord w
  | c :: cs =>
    if c = ' ' then flushWord w ++ lexLine [] cs
    else if c = '*' then flushWord w ++ ['*'] :: lexLine [] cs
    else lexLine (w ++ [c]) cs

/-- The value of a digit character in base 10 or 16. -/
def charDigit (base : Nat) (c : Char) : Option Nat :=
  let n := c.toNat
  let d := if 48 ≤ n ∧ n ≤ 57 then n - 48 else if 65 ≤ n ∧ n ≤ 70 then n - 55 else if 97 ≤ n ∧ n ≤ 102 then n - 87 else base
  if d < base then some d else none

/-- The digits of a number, most significant first, after the value `acc` of those before them. -/
def readDigits (base : Nat) (acc : Nat) : List Char → Option Nat
  | [] => some acc
  | c :: cs =>
    match charDigit base c with
    | some d => readDigits base (acc * base + d) cs
    | none => none

/-- `count` and `value`: a decimal number of at least one digit. DESIGN CHOICE (log 21): R81 gives no numeral form, and a
prefixed number such as `0x064` is rejected here. -/
def readDecimal (w : List Char) : Option Nat := if w = [] then none else readDigits 10 0 w

/-- `value`, 0 to 1023. -/
def readValue (w : List Char) : Option RawSample :=
  match readDecimal w with
  | some n => if n < 1024 then some (BitVec.ofNat 10 n) else none
  | none => none

/-- `'0x' hex4`: four hexadecimal digits whose value fits the 13 bits of the input vector (30_encoding.md R80). -/
def readHex (w : List Char) : Option InVec :=
  match w with
  | '0' :: 'x' :: ds =>
    if ds.length = 4 then
      match readDigits 16 0 ds with
      | some n => if n < 2 ^ 13 then some (BitVec.ofNat 13 n) else none
      | none => none
    else none
  | _ => none

/-- `vector` of R81. -/
def readVector : List (List Char) → Option StimVector
  | [w] =>
    if w = ['R', 'S', 'T'] then some .rst
    else if w = ['N', 'O', 'P'] then some .nop
    else if w = ['T', 'I', 'C', 'K'] then some .tick
    else (readHex w).map .hex
  | [w, v] =>
    if w = ['D', 'O', 'N', 'E'] then (readValue v).map .done
    else if w = ['D', 'A', 'T', 'A'] then (readValue v).map .data
    else none
  | [w, u, v] =>
    if w = ['T', 'I', 'C', 'K'] ∧ u = ['D', 'O', 'N', 'E'] then (readValue v).map .tickDone else none
  | _ => none

/-- The words of `[count '*'] vector`; without a count the count is 1. -/
def readWords : List (List Char) → Option StimLine
  | n :: ['*'] :: ws =>
    match readDecimal n, readVector ws with
    | some k, some v => some ⟨k, v⟩
    | _, _ => none
  | ws => (readVector ws).map (fun v => ⟨1, v⟩)

/-- `line` of R81. -/
def readLine (cs : List Char) : Option StimLine := readWords (lexLine [] (stripComment cs))

/-- The lines of a program from line number `n` on; the first that has not the form of R81 is named. -/
def readLines (n : Nat) : List (List Char) → Except StimError (List StimLine)
  | [] => .ok []
  | l :: ls =>
    match readLine l with
    | none => .error (.badLine n)
    | some s =>
      match readLines (n + 1) ls with
      | .ok ss => .ok (s :: ss)
      | .error e => .error e

/-- A stimulus program from the characters of its lines (R81). -/
def readProgram (ls : List (List Char)) : Except StimError (List StimLine) := readLines 0 ls

end Sys2Proof.Machine
end

