-- ==== Sys2Proof/Tests/Slice0.lean ====
section
/-! SUPPORT. The model's own tests. Expected values are the spec's: the decode vectors, the tables L2.1 to L2.7 and the
programs of 95_test_vectors.md, or the range column of 00_scope.md R10. Then a witness for every obligation that has
hypotheses: a concrete state and operands that meet all of them. -/

namespace Sys2Proof.Tests

open Sys2Proof.Machine

/-! ### Helpers -/

/-- The state after one edge, or the state itself where the step stops. -/
def after (s : State) : State :=
  match step s with
  | .next t => t
  | _ => s

/-- The result of a function executed as a row of the table on a core with configuration `c`. -/
def resultOf (c : Config) (i : Instr) : Option FnResult :=
  match exec i (State.resetWith c []) with
  | .next t => t.fnOut
  | _ => none

/-- The configuration of table L2.5. -/
def cfgL25 : Config :=
  { Config.test with digits := 2, window := 1, onTicks := 3, blankTicks := 2, cadence := 2, dpPos := some 1 }

/-- The start state of table L2.5, its slow path as program P3 leaves it after the first publish. -/
def live : State where
  cfg := cfgL25
  fast := FastRegs.reset
  acqPend := false
  slow := { SlowRegs.reset cfgL25 with
    raw := 100, meas := 4883, ring := [4883], sum := 4883, seedCnt := 1
    bank1 := [0x4F, 0xFF], act := true, dispValid := true, pubVal := 4883 }
  stim := []
  drawIdx := 0
  fnOut := none

/-- Program P3's configuration with the timeout `T`. -/
def liveT (T : Nat) : State := { live with cfg := { cfgL25 with adcTimeout := T } }

/-- A core with `N` = 3 in the middle of seeding (row 2 of table L2.4), in the slow-path state `a`. -/
def seedState (a : AState) : State :=
  let c := { Config.test with window := 3 }
  { State.resetWith c [] with
    slow := { SlowRegs.reset c with astate := a, meas := 200, ring := [100, 0, 0], idx := 1, sum := 100, seedCnt := 1 } }

/-- A core with `N` = 3 and a full window: row 6 of table L2.4. -/
def fullState : State :=
  let c := { Config.test with window := 3 }
  { State.resetWith c [] with
    slow := { SlowRegs.reset c with
      astate := .filter, meas := 9999, ring := [400, 0, 300], idx := 2, sum := 700, seedCnt := 3, dispValid := true } }

/-- The fast path of `live` in Show(`p`) at `dwell`. -/
def showing (s : State) (p dwell cyc : Nat) : State :=
  { s with fast := { phase := .lit, pos := p, dwell := dwell, cyc := cyc, digEn := onehot p,
                     seg := bankAt s.slow s.slow.act p } }

/-- The state with its slow path in `a`. -/
def inState (s : State) (a : AState) : State := { s with slow := { s.slow with astate := a } }

/-- The state with the coming input vectors fixed. -/
def feed (s : State) (vs : List InVec) : State := { s with stim := vs }

/-! ### WellFormed: an ill-formed term for each check (00_scope.md R10, R11; 70_reset_and_hazards.md R272) -/

theorem test_config_test_is_legal : Config.test.check = none := by decide
theorem test_config_no_digit : { Config.test with digits := 0 }.check = some .digits := by decide
theorem test_config_nine_digits : { Config.test with digits := 9 }.check = some .digits := by decide
theorem test_config_window : { Config.test with window := 0 }.check = some .window := by decide
theorem test_config_onTicks : { Config.test with onTicks := 0 }.check = some .onTicks := by decide
theorem test_config_blankTicks : { Config.test with blankTicks := 0 }.check = some .blankTicks := by decide
theorem test_config_cadence : { Config.test with cadence := 0 }.check = some .cadence := by decide
theorem test_config_refScale : { Config.test with refScale := 0 }.check = some .refScale := by decide
theorem test_config_fullScale : { Config.test with fullScale := 0 }.check = some .fullScale := by decide
theorem test_config_dpPos : { Config.test with dpPos := some 4 }.check = some .dpPos := by decide
theorem test_config_segTable : { Config.test with segTable := [0x3F] }.check = some .segTable := by decide
theorem test_config_adcChannel : { Config.test with adcChannel := 8 }.check = some .adcChannel := by decide
theorem test_wf_average_too_wide : Instr.wf Config.test (.average (2 ^ 17)) = false := by decide
theorem test_wf_average_largest : Instr.wf Config.test (.average (2 ^ 17 - 1)) = true := by decide
theorem test_stimulus_empty : stimulusWf [] = false := by decide
theorem test_stimulus_without_reset : stimulusWf [0x0800, 0x1000] = false := by decide
theorem test_stimulus_with_reset : stimulusWf [0x1000, 0x0800] = true := by decide

/-! ### Decoding: words written out from 30_encoding.md R72, R74, R78 (many are the decode vectors of table L2.6) -/

theorem test_decode_schReset : decodeTableWord 8 0b10111 = some .schReset := by decide
theorem test_decode_schWaitValid : decodeTableWord 8 0b00111 = some .schWaitValid := by decide
theorem test_decode_schNoTick : decodeTableWord 8 0b01011 = some .schNoTick := by decide
theorem test_decode_schDwell : decodeTableWord 8 0b01110 = some .schDwell := by decide
theorem test_decode_schBlankToShow : decodeTableWord 8 0b01101 = some .schBlankToShow := by decide
theorem test_decode_schShowToBlank : decodeTableWord 8 0b01111 = some .schShowToBlank := by decide
theorem test_decode_acqReset : decodeTableWord 16 0x1FF = some .acqReset := by decide
theorem test_decode_acqIdle : decodeTableWord 16 0b000001111 = some .acqIdle := by decide
theorem test_decode_acqLaunch : decodeTableWord 16 0x013 = some .acqLaunch := by decide
theorem test_decode_acqStart : decodeTableWord 16 0x03F = some .acqStart := by decide
theorem test_decode_acqPoll : decodeTableWord 16 0b001010011 = some .acqPoll := by decide
theorem test_decode_acqTimeout : decodeTableWord 16 0x044 = some .acqTimeout := by decide
theorem test_decode_acqCapture : decodeTableWord 16 0x04C = some .acqCapture := by decide
theorem test_decode_acqScale : decodeTableWord 16 0b001111111 = some .acqScale := by decide
theorem test_decode_acqUpdate : decodeTableWord 16 0x081 = some .acqUpdate := by decide
theorem test_decode_acqSeed : decodeTableWord 16 0b010010010 = some .acqSeed := by decide
theorem test_decode_acqSeedLast : decodeTableWord 16 0b010010011 = some .acqSeedLast := by decide
theorem test_decode_acqBuild : decodeTableWord 16 0b010111111 = some .acqBuild := by decide
theorem test_decode_acqPublish : decodeTableWord 16 0x0C0 = some .acqPublish := by decide
theorem test_decode_acqReservedState : decodeTableWord 16 0b011111111 = some .acqReservedState := by decide
theorem test_decode_segEncode : decode Config.test .segEncode 0b11001 = .ok (.segEncode 9 true) := by decide
theorem test_decode_average : decode Config.test .average 39064 = .ok (.average 39064) := by decide
theorem test_decode_scaleClamp : decode Config.test .scaleClamp 0b1111111111 = .ok (.scaleClamp 1023) := by decide
theorem test_decode_decSplit : decode Config.test .decSplit 0b10011100001111 = .ok (.decSplit 9999) := by decide
theorem test_decode_digitPatterns : decode Config.test .digitPatterns 0b00010011010010 = .ok (.digitPatterns 1234) := by
  decide
theorem test_decode_ssel_too_wide : decode Config.test .ssel 32 = .error (.tooWide .ssel) := by decide
theorem test_decode_raw_too_wide : decode Config.test .scaleClamp 1024 = .error (.tooWide .scaleClamp) := by decide
theorem test_decode_row_too_wide : decodeTableWord 16 0x200 = none := by decide

/-! ### The functions: tables L2.1 to L2.3 -/

theorem test_segEncode_point : resultOf Config.test (.segEncode 4 true) = some (.pattern 0xE6) := by decide
theorem test_segEncode_mod_ten : resultOf Config.test (.segEncode 12 false) = some (.pattern 0x5B) := by decide
theorem test_scaleClamp_unclamped : resultOf Config.test (.scaleClamp 204) = some (.value 9961) := by decide
theorem test_scaleClamp_tie_rounds_up :
    resultOf { Config.test with refScale := 1, fullScale := 4, roundHalf := 2 } (.scaleClamp 1) = some (.value 3) := by
  decide
theorem test_average_scenario_3 : resultOf Config.test (.average 360) = some (.value 45) := by decide
theorem test_average_floor : resultOf { Config.test with window := 3 } (.average 700) = some (.value 233) := by decide
theorem test_decSplit_order : resultOf Config.test (.decSplit 1234) = some (.digits [4, 3, 2, 1]) := by decide
theorem test_decSplit_two_digits :
    resultOf { Config.test with digits := 2, dpPos := some 1 } (.decSplit 1234) = some (.digits [4, 3]) := by decide
theorem test_digitPatterns_blanks_to_point :
    resultOf { Config.test with digits := 6, blankLz := true } (.digitPatterns 0) =
      some (.patterns [0x3F, 0x3F, 0xBF, 0x00, 0x00, 0x00]) := by decide
theorem test_digitPatterns_keeps_inner_zero :
    resultOf { Config.test with dpPos := none, blankLz := true } (.digitPatterns 120) =
      some (.patterns [0x3F, 0x5B, 0x06, 0x00]) := by decide

/-! ### The fast path: one edge each, table L2.5 -/

theorem test_schReset_from_show : (after (feed (showing live 1 2 1) [0x1000])).fast = FastRegs.reset := by decide
theorem test_schWaitValid_loses_tick :
    (after (feed (State.resetWith cfgL25 []) [0x0800])).fast = FastRegs.reset := by decide
theorem test_schNoTick_row_2 : (after (feed (showing live 0 0 0) [0x0000])).fast = (showing live 0 0 0).fast := by decide
theorem test_schDwell_row_3 : (after (feed (showing live 0 0 0) [0x0800])).fast = (showing live 0 1 0).fast := by decide
theorem test_schBlankToShow_row_1 :
    (after (feed { live with fast := { FastRegs.reset with dwell := 1 } } [0x0800])).fast =
      { phase := .lit, pos := 0, dwell := 0, cyc := 0, digEn := 0b01, seg := 0x4F } := by decide
theorem test_schBlankToShow_row_9 :
    (after (feed { live with fast := { FastRegs.reset with pos := 1, dwell := 1 } } [0x0800])).fast =
      { phase := .lit, pos := 1, dwell := 0, cyc := 0, digEn := 0b10, seg := 0xFF } := by decide
theorem test_schShowToBlank_row_5 :
    (after (feed (showing live 0 2 1) [0x0800])).fast =
      { phase := .blank, pos := 1, dwell := 0, cyc := 1, digEn := 0, seg := 0 } := by decide
theorem test_schShowToBlank_row_22 :
    (after (feed (showing live 1 2 1) [0x0800])).fast = FastRegs.reset ∧
      (after (feed (showing live 1 2 1) [0x0800])).acqPend = true := by decide

/-! ### The slow path: one edge each, tables L2.4 and L2.6, and L1.3 -/

theorem test_acqReset : (after (feed fullState [0x1C4D])).slow = SlowRegs.reset fullState.cfg := by decide
theorem test_acqIdle : (after (feed live [0x0C4D])).slow = live.slow := by decide
theorem test_acqLaunch_consumes :
    (after (feed { live with acqPend := true } [0])).slow.astate = .start ∧
      (after (feed { live with acqPend := true } [0])).acqPend = false := by decide
theorem test_acqLaunch_in_seeding : (after (feed (seedState .idle) [0])).slow.astate = .start := by decide
theorem test_acqStart :
    (outputs (inState live .start)).adcStartO = true ∧ (after (feed (inState live .start) [0x044D])).slow.astate = .wait := by
  decide
theorem test_acqPoll_baseline : (after (feed (inState live .wait) [0x004D])).slow = (inState live .wait).slow := by decide
theorem test_acqPoll_counts :
    (after (feed { liveT 3 with slow := { live.slow with astate := .wait, wcnt := 1 } } [0x004D])).slow =
      { live.slow with astate := .wait, wcnt := 2 } := by decide
theorem test_acqCapture_beats_timeout :
    (after (feed { liveT 3 with slow := { live.slow with astate := .wait, wcnt := 2, acqFault := true } } [0x044D])).slow =
      { live.slow with astate := .scale, wcnt := 2, raw := 77, acqFault := false } := by decide
theorem test_acqTimeout_at_once :
    (after (feed (inState (liveT 1) .wait) [0x004D])).slow = { live.slow with acqFault := true } := by decide
theorem test_acqTimeout_after_three :
    (after (feed { liveT 3 with slow := { live.slow with astate := .wait, wcnt := 2 } } [0x004D])).slow =
      { live.slow with acqFault := true } := by decide
theorem test_acqReservedState : (after (feed (inState live .reserved) [0])).slow = live.slow := by decide
theorem test_acqScale_clamps :
    (after (feed { live with slow := { live.slow with astate := .scale, raw := 205 } } [0])).slow =
      { live.slow with astate := .filter, raw := 205, meas := 9999 } := by decide
theorem test_acqSeed_row_2 :
    (after (feed (seedState .filter) [0])).slow =
      { (seedState .idle).slow with ring := [100, 200, 0], idx := 2, sum := 300, seedCnt := 2 } := by decide
theorem test_acqSeedLast_only_seed :
    (after (feed { State.resetWith cfgL25 [] with
        slow := { SlowRegs.reset cfgL25 with astate := .filter, meas := 4883 } } [0])).slow =
      { SlowRegs.reset cfgL25 with astate := .build, meas := 4883, ring := [4883], sum := 4883, seedCnt := 1 } := by decide
theorem test_acqUpdate_row_6 :
    (after (feed fullState [0])).slow =
      { fullState.slow with astate := .build, ring := [400, 0, 9999], idx := 0, sum := 10399 } := by decide
theorem test_acqBuild_shadow_bank :
    (after (feed { State.reset with slow := { State.reset.slow with astate := .build, sum := 360, seedCnt := 8 } } [0])).slow =
      { State.reset.slow with astate := .publish, sum := 360, seedCnt := 8, bank1 := [0x6D, 0x66, 0xBF, 0x3F] } := by decide
theorem test_acqPublish_flips :
    (after (feed { State.reset with slow := { State.reset.slow with astate := .publish, sum := 360, seedCnt := 8 } } [0])).slow =
      { State.reset.slow with sum := 360, seedCnt := 8, act := true, dispValid := true, pubVal := 45 } := by decide

/-! ### The interface: the next step runs the placed word -/

theorem test_withFetchWord_ssel : fastOp (State.reset.withFetchWord 8 0b01101) = some .schBlankToShow := by decide
theorem test_withFetchWord_asel : slowOp (State.reset.withFetchWord 16 0x044) = some .acqTimeout := by decide

/-! ### The notation and the trace: lines of program P3, and its cycles 8 and 9 -/

theorem test_line_count_and_comment :
    readLine ['7', '*', 'T', 'I', 'C', 'K', ' ', 'D', 'O', 'N', 'E', ' ', '1', '0', '0', ' ', ';', ' ', '0', 'x'] =
      some ⟨7, .tickDone 100⟩ := by decide
theorem test_line_hex : readLine ['0', 'x', '0', 'C', '6', '4'] = some ⟨1, .hex 0x0C64⟩ := by decide
theorem test_line_value_not_decimal :
    readLine ['D', 'O', 'N', 'E', ' ', '0', 'x', '0', '6', '4'] = none := by decide
theorem test_line_value_too_large :
    readProgram [['R', 'S', 'T'], ['D', 'O', 'N', 'E', ' ', '1', '0', '2', '4']] = .error (.badLine 1) := by decide
theorem test_trace_P3_cycle_8 :
    let c := { Config.test with digits := 2, window := 1, dpPos := some 1, adcTimeout := 3 }
    (trace 2 (feed { live with cfg := c } [0x0800, 0x0800])).map (fun r => (r.fast, r.slow, r.out.digEnO, r.out.segO)) =
      [(some .schBlankToShow, some .acqIdle, 0b01, 0x4F), (some .schShowToBlank, some .acqIdle, 0b00, 0x00)] := by decide

/-! ### Witnesses: for each obligation with hypotheses, a state and operands that meet all of them -/

theorem step_after (s : State) (h : s.cfg.Legal) : step s = .next (after s) := by
  obtain ⟨t, ht⟩ := step_completes h
  rw [ht, after, ht]

/-- The invariants of a state with a full window and something on display, all of them decidable. -/
theorem inv_of_full (s : State) (hv : s.slow.dispValid = true) (hs : s.slow.seedCnt = s.cfg.window)
    (h : s.cfg.Legal ∧ s.slow.ring.length = s.cfg.window ∧ s.slow.bank0.length = s.cfg.digits ∧
      s.slow.bank1.length = s.cfg.digits ∧ s.fast.pos < s.cfg.digits ∧ s.fast.dwell < phaseLen s ∧
      s.fast.cyc < s.cfg.cadence ∧ s.slow.idx < s.cfg.window ∧ s.slow.astate ≠ .reserved ∧ s.slow.meas ≤ 9999 ∧
      (∀ x ∈ s.slow.ring, x ≤ 9999) ∧ s.slow.sum ≤ s.cfg.window * 9999 ∧ s.slow.pubVal ≤ 9999 ∧
      (0 < s.cfg.adcTimeout → s.slow.wcnt < s.cfg.adcTimeout) ∧ (s.cfg.adcTimeout = 0 → s.slow.wcnt = 0) ∧
      s.slow.sum = s.slow.ring.sum ∧ (s.fast.phase = .blank → s.fast.digEn = 0 ∧ s.fast.seg = 0) ∧
      (s.fast.phase = .lit → s.fast.digEn = onehot s.fast.pos) ∧ popcount s.fast.digEn ≤ 1) : CoreInv s := by
  obtain ⟨h1, h2, h3, h4, h5, h6, h7, h8, h9, h10, h11, h12, h13, h14, h15, h16, h17, h18, h19⟩ := h
  exact
    { legal := h1
      shape := ⟨h2, h3, h4, fun _ => hs⟩
      range := ⟨h5, h6, h7, h8, Nat.le_of_eq hs, h9, Nat.le_of_lt_succ s.slow.raw.isLt, h10, h11, h12, h13, h14, h15⟩
      struct := ⟨h16, h17, h18, h19, fun hlt => absurd hs (Nat.ne_of_lt hlt),
        fun hf => absurd (hv.symm.trans hf) (by decide), fun _ => hs⟩ }

/-- A list of vectors checked one by one. -/
theorem quiet (l : List InVec) (h : l.all (fun v => !inRst v) = true) : ∀ v ∈ l, inRst v = false := by
  simpa using h
theorem quiet_done (l : List InVec) (b : Bool) (h : l.all (fun v => !inRst v && inDone v == b) = true) :
    ∀ v ∈ l, inRst v = false ∧ inDone v = b := by simpa using h

theorem inv_live : CoreInv live := inv_of_full _ rfl rfl (by decide)
theorem inv_full : CoreInv fullState := inv_of_full _ rfl rfl (by decide)
theorem inv_showing : CoreInv (feed (showing live 1 2 1) [0x0800]) := inv_of_full _ rfl rfl (by decide)
theorem disp_live : DisplayInv live := ⟨fun _ => by decide, fun h => absurd h (by decide)⟩

/-- The invariants also hold in the middle of seeding. -/
theorem inv_seeding : CoreInv (seedState .filter) where
  legal := by decide
  shape := ⟨by decide, by decide, by decide, by decide⟩
  range := ⟨by decide, by decide, by decide, by decide, by decide, by decide, by decide, by decide, by decide,
    by decide, by decide, by decide, by decide⟩
  struct := ⟨by decide, by decide, by decide, by decide,
    fun _ => ⟨rfl, fun j hj => by
      match j, hj with
      | 1, _ => rfl
      | 2, _ => rfl
      | n + 3, _ => rfl, rfl⟩, by decide, by decide⟩

theorem wit_SchDwellCountsTick :
    CoreInv (showing live 0 1 0) ∧ fastOp (feed (showing live 0 1 0) [0x0800]) = some .schDwell ∧
      CoreInv (showing live 0 2 0) ∧ fastOp (feed (showing live 0 2 0) [0x0800]) = some .schShowToBlank :=
  ⟨inv_of_full _ rfl rfl (by decide), by decide, inv_of_full _ rfl rfl (by decide), by decide⟩
/-- The last position of a bank of two. -/
theorem wit_SchBlankToShowDrivesDigit :
    let s := feed { live with fast := { FastRegs.reset with pos := 1, dwell := 1 } } [0x0800]
    s.fast.pos < 8 ∧ s.fast.pos < (if s.slow.act then s.slow.bank1 else s.slow.bank0).length := by decide
theorem wit_AcqSeedWritesOneSample :
    let r := (seedState .filter).slow
    r.idx < r.ring.length ∧ r.ring.getD r.idx 0 ≤ r.sum := by decide
/-- The last entry of the ring. -/
theorem wit_AcqSeedLastCompletesWindow :
    let r := { (seedState .filter).slow with ring := [100, 200, 0], idx := 2, sum := 300, seedCnt := 2 }
    r.idx < r.ring.length ∧ r.ring.getD r.idx 0 ≤ r.sum ∧ r.seedCnt + 1 = (seedState .filter).cfg.window := by decide
theorem wit_AcqStartRequestsConversion : (inState live .start).slow.astate = .start := by decide
theorem wit_AcqPollCountsOnlyWithTimeout : 0 < (liveT 1).cfg.adcTimeout ∧ live.cfg.adcTimeout = 0 := by decide
theorem wit_AcqUpdateEvictsOldest :
    RangeInv fullState ∧ slowOp (feed fullState [0]) = some .acqUpdate ∧
      fullState.slow.idx < fullState.slow.ring.length ∧ fullState.slow.ring.getD fullState.slow.idx 0 ≤ fullState.slow.sum ∧
      RangeInv (seedState .filter) ∧ slowOp (feed (seedState .filter) [0]) = some .acqSeed :=
  ⟨inv_full.range, by decide, by decide, by decide, inv_seeding.range, by decide⟩
theorem wit_AcqBuildWritesShadowBank :
    (inState State.reset .build).slow.act = false ∧ (inState live .build).slow.act = true := by decide
theorem wit_ScaleClampIsExactAndMonotone : (204 : RawSample).toNat ≤ (205 : RawSample).toNat := by decide
theorem wit_ScaleRoundsHalfUp : 1 ≤ Config.test.fullScale ∧ Config.test.roundHalf = Config.test.fullScale / 2 := by decide
theorem wit_DecSplitGivesDecimalDigits :
    99 < 10 ^ cfgL25.digits ∧ 4 ≤ Config.test.digits ∧ 9999 ≤ 9999 ∧ 0 < 10 ^ cfgL25.digits := by decide
/-- Digit 2 carries the point and stays lit, digit 3 above it is dark: both sides of the boundary. -/
theorem wit_DigitPatternsBlankLeadingZeros :
    let c := { Config.test with digits := 6, blankLz := true }
    (c.blankLz = true ∧ 0 < 3 ∧ (∀ j, 3 ≤ j → j < c.digits → 0 / 10 ^ j % 10 = 0) ∧ (∀ p, c.dpPos = some p → p < 3)) ∧
      ¬ (c.blankLz = true ∧ 0 < 2 ∧ (∀ j, 2 ≤ j → j < c.digits → 0 / 10 ^ j % 10 = 0) ∧
        (∀ p, c.dpPos = some p → p < 2)) ∧ 2 < c.digits ∧ 3 < c.digits :=
  ⟨⟨rfl, by decide, fun j _ _ => by simp, fun p hp => by cases hp; decide⟩,
    fun h => absurd (h.2.2.2 2 rfl) (by decide), by decide, by decide⟩
theorem wit_DecodeOfEncodeIsIdentity :
    Instr.wf Config.test (.average (2 ^ 17 - 1)) = true ∧ Instr.wf Config.test (.segEncode 15 true) = true := by decide
theorem wit_FunctionWordsHaveOneMeaning :
    decode Config.test .segEncode 31 = .ok (.segEncode 15 true) ∧
      decode Config.test .average (2 ^ 17 - 1) = .ok (.average (2 ^ 17 - 1)) ∧
      decode Config.test .scaleClamp 1023 = .ok (.scaleClamp 1023) ∧
      2 ^ formatWidth Config.test .decSplit ≤ 2 ^ 14 := by decide
theorem wit_ProgramsMustBeginWithReset :
    (∃ v vs, expandProgram [⟨1, .rst⟩, ⟨2, .tick⟩] = v :: vs ∧ inRst v = true) ∧
      (¬ ∃ v vs, expandProgram [⟨1, .tick⟩] = v :: vs ∧ inRst v = true) ∧
      ¬ ∃ v vs, expandProgram [⟨0, .rst⟩] = v :: vs ∧ inRst v = true :=
  ⟨⟨0x1000, [0x0800, 0x0800], by decide, by decide⟩,
    fun ⟨v, vs, h, hr⟩ => by cases h; exact absurd hr (by decide), fun ⟨v, vs, h, _⟩ => nomatch h⟩
theorem wit_StepRunsSelectedOperations :
    live.cfg.Legal ∧ fastOp (feed live [0x0800]) = some .schDwell ∧ slowOp (feed live [0x0800]) = some .acqIdle := by decide
theorem wit_OnlyIllegalConfigurationsAreRefused :
    live.cfg.Legal ∧ { live with cfg := { cfgL25 with cadence := 0 } }.cfg.check = some .cadence := by decide
theorem wit_ResetEdgeClearsEverything :
    (feed (showing live 1 2 1) [0x1000]).cfg.Legal ∧ rstIn (feed (showing live 1 2 1) [0x1000]) = true := by decide
theorem wit_RequestBitCombinesSetAndClear :
    step (feed (showing live 1 2 1) [0x0800]) = .next (after (feed (showing live 1 2 1) [0x0800])) ∧
      (after (feed (showing live 1 2 1) [0x0800])).acqPend = true := ⟨step_after _ (by decide), by decide⟩

/-- The rows of the table of 60_exceptions.md R248, one state for each. -/
theorem wit_PrioritiesAtOneEdge_stopped :
    let s1 := feed (showing live 1 2 1) [0x1800]
    let s2 := feed (State.resetWith cfgL25 []) [0x0800]
    let s3 := feed (inState (seedState .filter) .publish) [0x0800]
    step s1 = .next (after s1) ∧ rstIn s1 = true ∧
      step s2 = .next (after s2) ∧ rstIn s2 = false ∧ s2.slow.dispValid = false ∧
      step s3 = .next (after s3) ∧ rstIn s3 = false ∧ s3.slow.astate = .publish ∧ s3.slow.dispValid = false :=
  ⟨step_after _ (by decide), by decide, step_after _ (by decide), by decide, by decide, step_after _ (by decide),
    by decide, by decide, by decide⟩
theorem wit_PrioritiesAtOneEdge_running :
    let s4 := feed (inState { live with fast := { FastRegs.reset with dwell := 1 } } .publish) [0x0800]
    let s5 := feed { liveT 3 with slow := { live.slow with astate := .wait, wcnt := 2 } } [0x044D]
    let s6 := feed { showing live 1 2 1 with acqPend := true } [0x0800]
    step s4 = .next (after s4) ∧ s4.slow.astate = .publish ∧ fastOp s4 = some .schBlankToShow ∧
      step s5 = .next (after s5) ∧ rstIn s5 = false ∧ s5.slow.astate = .wait ∧ doneIn s5 = true ∧ tmo s5 = true ∧
      step s6 = .next (after s6) ∧ fastOp s6 = some .schShowToBlank ∧ s6.fast.pos = s6.cfg.digits - 1 ∧
      s6.fast.cyc = s6.cfg.cadence - 1 ∧ slowOp s6 = some .acqLaunch ∧ s6.acqPend = true :=
  ⟨step_after _ (by decide), by decide, by decide, step_after _ (by decide), by decide, by decide, by decide, by decide,
    step_after _ (by decide), by decide, by decide, by decide, by decide, by decide⟩
theorem wit_PrioritiesAtOneEdge_invariant : CoreInv (seedState .filter) ∧ CoreInv live := ⟨inv_seeding, inv_live⟩

theorem wit_EachRegisterHasOneWriter :
    exec .schDwell live = .next { live with fast := { live.fast with dwell := 1 } } ∧ Instr.agent .schDwell = .fastPath ∧
      exec .acqTimeout live = .next { live with slow := { live.slow with acqFault := true } } ∧
      Instr.agent .acqTimeout = .slowPath ∧
      exec (.average 7) live = .next { live with fnOut := some (.value 7) } ∧ Instr.agent (.average 7) = .function :=
  ⟨rfl, rfl, rfl, rfl, rfl, rfl⟩
theorem wit_OutputsAreMooreFunctions : live.cfg.Legal ∧ live.slow.pubVal ≤ 9999 := by decide
theorem wit_InvariantsHoldAtReset : cfgL25.Legal := by decide
theorem wit_EveryStepKeepsInv :
    CoreInv live ∧ step live = .next (after live) ∧ CoreInv (seedState .filter) ∧
      step (seedState .filter) = .next (after (seedState .filter)) :=
  ⟨inv_live, step_after _ (by decide), inv_seeding, step_after _ (by decide)⟩
theorem wit_ReachableStatesMeetInvariants :
    (feed (showing live 1 2 1) [0x1000]).cfg.Legal ∧ rstIn (feed (showing live 1 2 1) [0x1000]) = true := by decide
theorem wit_EveryStepKeepsDisplay : DisplayInv live ∧ step live = .next (after live) := ⟨disp_live, step_after _ (by decide)⟩
theorem wit_RegistersFitTheirWidths : CoreInv live ∧ CoreInv fullState := ⟨inv_live, inv_full⟩
theorem wit_UpdateAveragesLastWindow : CoreInv fullState := inv_full
theorem wit_AtMostOneDigitLine : CoreInv (feed (showing live 1 2 1) [0x0800]) := inv_showing
theorem wit_NoGhosting :
    let s := feed { live with fast := { FastRegs.reset with dwell := 1 } } [0x0800]
    let u := feed (showing live 0 0 0) [0x0800]
    CoreInv s ∧ step s = .next (after s) ∧ (after s).fast.seg ≠ s.fast.seg ∧ (after s).fast.seg ≠ 0 ∧
      CoreInv u ∧ step u = .next (after u) ∧ u.fast.digEn ≠ 0 ∧ (after u).fast.digEn ≠ 0 :=
  ⟨inv_of_full _ rfl rfl (by decide), step_after _ (by decide), by decide, by decide, inv_of_full _ rfl rfl (by decide),
    step_after _ (by decide), by decide, by decide⟩
theorem wit_PositionSequence :
    let s := feed { live with fast := { FastRegs.reset with dwell := 1 } } [0x0800]
    let u := feed (showing live 1 2 1) [0x0800]
    step s = .next (after s) ∧ rstIn s = false ∧ (after s).fast.phase = .lit ∧ s.fast.phase = .blank ∧
      step u = .next (after u) ∧ rstIn u = false ∧ u.fast.phase = .lit ∧ (after u).fast.phase = .blank :=
  ⟨step_after _ (by decide), by decide, by decide, by decide, step_after _ (by decide), by decide, by decide, by decide⟩
theorem wit_PhaseLastsItsTicks :
    let s := feed live [0x0800, 0x0000, 0x0800]
    s.cfg.Legal ∧ s.slow.dispValid = true ∧ s.stim = [0x0800, 0x0000] ++ [0x0800] ∧
      (∀ v ∈ ([0x0800, 0x0000] : List InVec), inRst v = false) ∧
      s.fast.dwell + tickCount [0x0800, 0x0000] < phaseLen s ∧
      s.stim = ([0x0800, 0x0000] ++ [0x0800]) ++ [] ∧ inRst 0x0800 = false ∧
      inTick 0x0800 = true ∧ s.fast.dwell + tickCount [0x0800, 0x0000, 0x0800] = phaseLen s :=
  ⟨by decide, by decide, by decide, quiet _ (by decide), by decide, by decide, by decide, by decide, by decide⟩
theorem wit_SchedulerCycleLength :
    let us : List InVec := 0x0000 :: List.replicate 9 0x0800
    let s := feed live (us ++ 0x0800 :: [])
    CoreInv s ∧ s.slow.dispValid = true ∧ s.stim = us ++ 0x0800 :: [] ∧ (∀ u ∈ us, inRst u = false) ∧
      inRst 0x0800 = false ∧ inTick 0x0800 = true ∧ s.fast.phase = .blank ∧ s.fast.pos = 0 ∧ s.fast.dwell = 0 ∧
      tickCount us + 1 = s.cfg.digits * (s.cfg.onTicks + s.cfg.blankTicks) :=
  ⟨inv_of_full _ rfl rfl (by decide), by decide, rfl, quiet _ (by decide), by decide, by decide, by decide, by decide,
    by decide, by decide⟩
theorem wit_DisplayedBankChangesOnlyByPublish :
    let s := feed (inState live .build) [0]
    let u := feed (inState live .publish) [0]
    step s = .next (after s) ∧ rstIn s = false ∧ s.slow.astate ≠ .publish ∧
      step u = .next (after u) ∧ rstIn u = false ∧ u.slow.astate = .publish :=
  ⟨step_after _ (by decide), by decide, by decide, step_after _ (by decide), by decide, by decide⟩
theorem wit_ShownDigitIsOfPublishedValue :
    let s := feed { live with fast := { FastRegs.reset with pos := 1, dwell := 1 } } [0x0800]
    CoreInv s ∧ DisplayInv s ∧ step s = .next (after s) ∧ fastOp s = some .schBlankToShow :=
  ⟨inv_of_full _ rfl rfl (by decide), ⟨disp_live.shown, disp_live.built⟩, step_after _ (by decide), by decide⟩
/-- Two cores that differ in everything of the slow path but what is on display at the present position. -/
theorem wit_FastPathSeesOnlyDisplayedEntry :
    let s := feed { live with fast := { FastRegs.reset with dwell := 1 } } [0x0800]
    let u := feed { s with acqPend := true, slow := { s.slow with
      astate := .wait, pubVal := 7, ring := [7], sum := 7, bank0 := [0x4F, 0x00], act := false } } [0x0C4D]
    s.cfg = u.cfg ∧ s.fast = u.fast ∧ s.slow.dispValid = u.slow.dispValid ∧ s.slow ≠ u.slow ∧
      bankAt s.slow s.slow.act s.fast.pos = bankAt u.slow u.slow.act u.fast.pos ∧ rstIn s = rstIn u ∧
      tickIn s = tickIn u ∧ step s = .next (after s) ∧ step u = .next (after u) :=
  ⟨by decide, by decide, by decide, by decide, by decide, by decide, by decide, step_after _ (by decide),
    step_after _ (by decide)⟩
theorem wit_SlowPathSeesOnlyRequestBit :
    let s := feed (inState live .wait) [0x044D]
    let u := feed (inState (showing live 1 2 1) .wait) [0x0C4D]
    s.cfg = u.cfg ∧ s.slow = u.slow ∧ s.acqPend = u.acqPend ∧ s.fast ≠ u.fast ∧ rstIn s = rstIn u ∧
      doneIn s = doneIn u ∧ dataIn s = dataIn u ∧ step s = .next (after s) ∧ step u = .next (after u) :=
  ⟨by decide, by decide, by decide, by decide, by decide, by decide, by decide, step_after _ (by decide),
    step_after _ (by decide)⟩
theorem wit_ConverterLookedAtOnlyInWait :
    let s1 := feed live [0x044D]
    let u1 := feed live [0x0001]
    let s2 := feed (inState live .wait) [0x004D]
    let u2 := feed (inState live .wait) [0x0001]
    (s1.slow.astate ≠ .wait ∧ doneIn s1 ≠ doneIn u1 ∧ rstIn s1 = rstIn u1 ∧ tickIn s1 = tickIn u1 ∧
        step s1 = .next (after s1) ∧ step u1 = .next (after u1)) ∧
      s2.slow.astate = .wait ∧ doneIn s2 = false ∧ doneIn u2 = false ∧ dataIn s2 ≠ dataIn u2 ∧ rstIn s2 = rstIn u2 ∧
        tickIn s2 = tickIn u2 ∧ step s2 = .next (after s2) ∧ step u2 = .next (after u2) :=
  ⟨⟨by decide, by decide, by decide, by decide, step_after _ (by decide), step_after _ (by decide)⟩, by decide, by decide,
    by decide, by decide, by decide, by decide, step_after _ (by decide), step_after _ (by decide)⟩
theorem wit_BaselineStallHoldsSlowPath :
    let vs : List InVec := [0x0800, 0x0000, 0x084D]
    let s := feed (inState live .wait) (vs ++ [0x0C64])
    s.cfg.Legal ∧ s.cfg.adcTimeout = 0 ∧ s.slow.astate = .wait ∧ s.stim = vs ++ [0x0C64] ∧
      (∀ v ∈ vs, inRst v = false ∧ inDone v = false) :=
  ⟨by decide, by decide, by decide, rfl, quiet_done _ _ (by decide)⟩
theorem wit_TimeoutAfterExactlyItsCycles :
    let vs : List InVec := [0x0800, 0x0000, 0x084D]
    let s := feed (inState (liveT 3) .wait) (vs ++ [0x0C64])
    s.cfg.Legal ∧ 0 < s.cfg.adcTimeout ∧ s.slow.astate = .wait ∧ s.slow.wcnt = 0 ∧ s.stim = vs ++ [0x0C64] ∧
      vs.length = s.cfg.adcTimeout ∧ (∀ v ∈ vs, inRst v = false ∧ inDone v = false) :=
  ⟨by decide, by decide, by decide, by decide, rfl, by decide, quiet_done _ _ (by decide)⟩
/-- Program P3's acquisition: the completion in the last WAIT cycle that the timeout allows. -/
theorem wit_AcquisitionEndToEnd :
    let ps : List InVec := [0x0800, 0x0800]
    let d : InVec := 0x0D2C
    let s := feed { liveT 3 with acqPend := true } (0x0800 :: 0x0800 :: (ps ++ d :: d :: d :: d :: d :: []))
    s.cfg.Legal ∧ s.slow.astate = .idle ∧ s.slow.seedCnt = s.cfg.window ∧ s.acqPend = true ∧
      s.stim = 0x0800 :: 0x0800 :: (ps ++ d :: d :: d :: d :: d :: []) ∧
      (∀ v ∈ [0x0800, 0x0800, d, d, d, d, d] ++ ps, inRst v = false) ∧ (∀ v ∈ ps, inDone v = false) ∧ inDone d = true ∧
      (s.cfg.adcTimeout = 0 ∨ ps.length < s.cfg.adcTimeout) :=
  ⟨by decide, by decide, by decide, by decide, rfl, quiet _ (by decide),
    fun v hv => (quiet_done _ false (by decide) v hv).2, by decide, by decide⟩
/-- Program P1's and P3's seeding, for a window of one. -/
theorem wit_BootSeedsAndPublishes :
    cfgL25.Legal ∧ (List.replicate 7 (0x0C64 : InVec)).length = 5 * cfgL25.window + 2 ∧
      (∀ v ∈ List.replicate 7 (0x0C64 : InVec), inRst v = false ∧ inDone v = true) ∧
      ∀ v ∈ List.replicate 7 (0x0C64 : InVec), inData v = 100 :=
  ⟨by decide, by decide, quiet_done _ _ (by decide), fun v hv => by rw [List.eq_of_mem_replicate hv]; decide⟩

end Sys2Proof.Tests
end

/-! SUPPORT. The statements of 00_scope.md: which configurations are legal (R10, R11), that the registers fit their widths
(R12), and what one clock edge runs and commits (R7, R13). -/

namespace Sys2Proof.Proofs.Scope

open Sys2Proof Sys2Proof.Machine

/-! ### Legal configurations -/

/-- The test of `DP_POS` in `Config.check`, as a bound on the decimal point's position (00_scope.md R10). -/
theorem dpPos_any_eq_false_iff (c : Config) :
    c.dpPos.any (fun p => decide (c.digits ≤ p)) = false ↔ ∀ p, c.dpPos = some p → p < c.digits := by
  cases c.dpPos <;> simp

theorem dpPos_lt_of_legal {c : Config} (h : c.Legal) : ∀ p, c.dpPos = some p → p < c.digits := by
  rw [← dpPos_any_eq_false_iff]
  unfold Config.Legal Config.check at h
  split_ifs at h with _ _ _ _ _ _ _ hdp
  exact Bool.eq_false_of_not_eq_true hdp

/-- The converse of `legal_ranges`: parameters in the ranges of 00_scope.md R10 pass every test of `Config.check`. -/
theorem legal_of_ranges {c : Config} (hD1 : 1 ≤ c.digits) (hD8 : c.digits ≤ 8) (hN : 1 ≤ c.window)
    (hOn : 1 ≤ c.onTicks) (hBlank : 1 ≤ c.blankTicks) (hK : 1 ≤ c.cadence) (hRef : 1 ≤ c.refScale)
    (hFull : 1 ≤ c.fullScale) (hDp : ∀ p, c.dpPos = some p → p < c.digits) (hSeg : c.segTable.length = 10)
    (hCh : c.adcChannel < 2 ^ 3) : c.Legal := by
  have hDp' : ¬ c.dpPos.any (fun p => decide (c.digits ≤ p)) = true := by
    rw [(dpPos_any_eq_false_iff c).2 hDp]
    exact Bool.false_ne_true
  unfold Config.Legal Config.check chW
  rw [if_neg (not_or.2 ⟨hD1.not_gt, hD8.not_gt⟩), if_neg hN.not_gt, if_neg hOn.not_gt, if_neg hBlank.not_gt,
    if_neg hK.not_gt, if_neg hRef.not_gt, if_neg hFull.not_gt, if_neg hDp', if_neg (not_not.2 hSeg),
    if_neg hCh.not_ge]

theorem legal_iff_ranges (c : Config) : c.Legal ↔
    (1 ≤ c.digits ∧ c.digits ≤ 8 ∧ 1 ≤ c.window ∧ 1 ≤ c.onTicks ∧ 1 ≤ c.blankTicks ∧ 1 ≤ c.cadence ∧
      1 ≤ c.refScale ∧ 1 ≤ c.fullScale ∧ (∀ p, c.dpPos = some p → p < c.digits) ∧ c.segTable.length = 10 ∧
      c.adcChannel < 2 ^ 3) := by
  constructor
  · intro h
    obtain ⟨hD1, hD8, hN, hOn, hBlank, hK, hRef, hFull, hSeg, hCh⟩ := legal_ranges h
    exact ⟨hD1, hD8, hN, hOn, hBlank, hK, hRef, hFull, dpPos_lt_of_legal h, hSeg, hCh⟩
  · rintro ⟨hD1, hD8, hN, hOn, hBlank, hK, hRef, hFull, hDp, hSeg, hCh⟩
    exact legal_of_ranges hD1 hD8 hN hOn hBlank hK hRef hFull hDp hSeg hCh

/-- An illegal configuration is refused before either agent selects an operation (00_scope.md R11). -/
theorem step_refused_of_check {s : State} {p : ConfigParam} (h : s.cfg.check = some p) :
    step s = .refused (.illegalConfig p) := by
  unfold step
  rw [h]

/-- Settles O34: legality is the conjunction of the ranges, a legal step completes, an illegal one is refused. -/
theorem onlyIllegalConfigurationsAreRefused : Obligations.OnlyIllegalConfigurationsAreRefused :=
  ⟨legal_iff_ranges, fun _ => step_completes, fun _ _ => step_refused_of_check⟩

/-! ### Register widths -/

/-- `DW_W` is wide enough for both phases (00_scope.md R12). -/
theorem phaseLen_le_max (s : State) : phaseLen s ≤ max s.cfg.onTicks s.cfg.blankTicks := by
  rw [phaseLen_eq]
  split_ifs
  · exact Nat.le_max_left _ _
  · exact Nat.le_max_right _ _

/-- The two clauses of 10_state.md R46 on `wcnt`, with a timeout and without, as the one bound `WC_W` is derived from. -/
theorem wcnt_lt_max {s : State} (h : RangeInv s) : s.slow.wcnt < max 1 s.cfg.adcTimeout := by
  rcases Nat.eq_zero_or_pos s.cfg.adcTimeout with h0 | hpos
  · have := h.wcnt_zero h0
    omega
  · have := h.wcnt_lt hpos
    omega

/-- A value that respects the clamp ceiling fits `MEAS_W` bits (00_scope.md R12). -/
theorem lt_two_pow_measW {n : Nat} (h : n ≤ 9999) : n < 2 ^ measW :=
  Nat.lt_of_le_of_lt h (by decide)

/-- Settles O44: each width of R12 is `bits` of a bound that R46 puts on its register. -/
theorem registersFitTheirWidths : Obligations.RegistersFitTheirWidths := by
  intro s ⟨_, _, hrange, _⟩
  exact
    ⟨lt_two_pow_bits hrange.pos_lt,
      lt_two_pow_bits (hrange.dwell_lt.trans_le (phaseLen_le_max s)),
      lt_two_pow_bits hrange.cyc_lt,
      lt_two_pow_bits hrange.idx_lt,
      lt_two_pow_bits (Nat.lt_succ_of_le hrange.seedCnt_le),
      lt_two_pow_bits (Nat.lt_succ_of_le hrange.sum_le),
      lt_two_pow_bits (wcnt_lt_max hrange),
      lt_two_pow_measW hrange.meas_le,
      lt_two_pow_measW hrange.pubVal_le,
      fun x hx => lt_two_pow_measW (hrange.ring_le x hx)⟩

/-! ### One clock edge -/

/-- `sched_set` in the pre-edge registers (43_refresh_scheduler.md R168, R169). -/
theorem schedSet_eq (f : Instr) (s : State) :
    schedSet f s =
      decide (f = .schShowToBlank ∧ s.fast.pos = s.cfg.digits - 1 ∧ s.fast.cyc = s.cfg.cadence - 1) := by
  simp [schedSet, requestAfterShow, cycleEnds, cadenceEnds, Bool.decide_and]

/-- `acq_pend` as committed: reset wins, then a set wins over the clear (44_acquisition_and_digit_buffer.md R221). -/
theorem commitEdge_acqPend_eq (s : State) (fast : FastRegs) (slow : SlowRegs) (set clr : Bool) :
    (commitEdge s fast slow set clr).acqPend = (!rstIn s && (set || (s.acqPend && !clr))) := by
  rw [commitEdge_acqPend]
  cases rstIn s <;> rfl

/-- `commitEdge` field by field, in the pre-edge registers and the two operations. -/
theorem commitEdge_eq (s : State) (fast : FastRegs) (slow : SlowRegs) (f a : Instr) :
    commitEdge s fast slow (schedSet f s) (acqClr a) = {
      cfg := s.cfg
      fast := fast
      acqPend := !rstIn s &&
        (decide (f = .schShowToBlank ∧ s.fast.pos = s.cfg.digits - 1 ∧ s.fast.cyc = s.cfg.cadence - 1) ||
          (s.acqPend && !decide (a = .acqLaunch)))
      slow := slow
      stim := s.stim.tail
      drawIdx := s.drawIdx + 1
      fnOut := s.fnOut } := by
  rw [← acqClr, ← schedSet_eq, ← commitEdge_acqPend_eq s fast slow]
  rfl

/-- Settles O33: both operations complete on the pre-edge state, and `step` commits their two results. -/
theorem stepRunsSelectedOperations : Obligations.StepRunsSelectedOperations := by
  intro s f a hlegal hf ha
  obtain ⟨tf, htf⟩ := exec_next f s
  obtain ⟨ta, hta⟩ := exec_next a s
  refine ⟨tf, ta, htf, hta, ?_⟩
  rw [step_eq hlegal hf ha htf hta, commitEdge_eq]

end Sys2Proof.Proofs.Scope

/-! SUPPORT. The statements of 10_state.md: one writer for each register (R21, R28), the outputs (R45), and the range and
structural invariants (R46, R47) at reset, along every edge and along every run. -/

namespace Sys2Proof.Proofs.Registers

open Sys2Proof Sys2Proof.Machine

/-! ### The invariant, agent by agent

`CoreInv` speaks of the whole state. An edge computes each agent's registers on its own (`fastAfter`, `slowAfter`), so
the invariant is cut into a part on the fast path's registers, one on the slow path's, and the one clause of R47 that
joins them; `coreInv_iff` puts the parts together. -/

/-- The length of a phase in ticks. -/
def phaseTicks (c : Config) : Phase → Nat
  | .lit => c.onTicks
  | .blank => c.blankTicks

theorem phaseLen_eq_phaseTicks (s : State) : phaseLen s = phaseTicks s.cfg s.fast.phase := by
  unfold phaseLen
  cases s.fast.phase <;> rfl

theorem phaseTicks_pos {c : Config} (hc : c.Legal) (p : Phase) : 0 < phaseTicks c p := by
  obtain ⟨_, _, _, hOn, hBlank, _⟩ := legal_ranges hc
  cases p
  · exact hBlank
  · exact hOn

/-- The clauses of R46 and R47 on the fast path's registers alone. -/
structure FastInv (c : Config) (f : FastRegs) : Prop where
  pos_lt : f.pos < c.digits
  dwell_lt : f.dwell < phaseTicks c f.phase
  cyc_lt : f.cyc < c.cadence
  blank_dark : f.phase = .blank → f.digEn = 0 ∧ f.seg = 0
  lit_onehot : f.phase = .lit → f.digEn = onehot f.pos

/-- The filter's storage: `N` clamped measurements, `sum` their sum, `idx` one of their places. -/
structure WindowInv (c : Config) (ring : List Nat) (idx sum : Nat) : Prop where
  length_eq : ring.length = c.window
  idx_lt : idx < c.window
  ring_le : ∀ x ∈ ring, x ≤ 9999
  sum_eq : sum = ring.sum

/-- The clauses of R46, R47 and `ShapeInv` on the slow path's registers alone. -/
structure SlowInv (c : Config) (r : SlowRegs) : Prop where
  window : WindowInv c r.ring r.idx r.sum
  bank0_length : r.bank0.length = c.digits
  bank1_length : r.bank1.length = c.digits
  build_seeded : r.astate = .build ∨ r.astate = .publish → r.seedCnt = c.window
  seedCnt_le : r.seedCnt ≤ c.window
  astate_ne : r.astate ≠ .reserved
  meas_le : r.meas ≤ 9999
  pubVal_le : r.pubVal ≤ 9999
  wcnt_lt : 0 < c.adcTimeout → r.wcnt < c.adcTimeout
  wcnt_zero : c.adcTimeout = 0 → r.wcnt = 0
  seeding_fills : r.seedCnt < c.window →
    r.idx = r.seedCnt ∧ (∀ j, r.seedCnt ≤ j → ringAt r j = 0) ∧ r.dispValid = false
  valid_seeded : r.dispValid = true → r.seedCnt = c.window

/-- Until the first publish the fast path rests at its reset values and no request is pending. -/
def RestsBeforePublish (s : State) : Prop :=
  s.slow.dispValid = false → s.fast = FastRegs.reset ∧ s.acqPend = false

theorem popcount_onehot_le {p : Nat} (h : p < 8) : popcount (onehot p) ≤ 1 := by
  revert p
  decide

theorem FastInv.popcount_le {c : Config} {f : FastRegs} (h : FastInv c f) (hc : c.Legal) : popcount f.digEn ≤ 1 := by
  obtain ⟨_, hD8, _⟩ := legal_ranges hc
  cases hp : f.phase
  · rw [(h.blank_dark hp).1]
    decide
  · rw [h.lit_onehot hp]
    exact popcount_onehot_le (h.pos_lt.trans_le hD8)

theorem WindowInv.sum_le {c : Config} {ring : List Nat} {idx sum : Nat} (h : WindowInv c ring idx sum) :
    sum ≤ c.window * 9999 := by
  rw [h.sum_eq, ← h.length_eq]
  exact List.sum_le_card_nsmul ring 9999 h.ring_le

theorem WindowInv.average_le {c : Config} {ring : List Nat} {idx sum : Nat} (h : WindowInv c ring idx sum) :
    average c sum ≤ 9999 :=
  Nat.div_le_of_le_mul h.sum_le

theorem coreInv_iff (s : State) :
    CoreInv s ↔ s.cfg.Legal ∧ FastInv s.cfg s.fast ∧ SlowInv s.cfg s.slow ∧ RestsBeforePublish s := by
  constructor
  · intro ⟨hlegal, hshape, hrange, hstruct⟩
    refine ⟨hlegal, ?fast, ?slow, fun hv => ?rests⟩
    case fast =>
      exact { hrange, hstruct with dwell_lt := phaseLen_eq_phaseTicks s ▸ hrange.dwell_lt }
    case slow =>
      exact
        { hshape, hrange, hstruct with
          window := ⟨hshape.ring_length, hrange.idx_lt, hrange.ring_le, hstruct.sum_eq⟩
          astate_ne := hrange.astate_le_six }
    case rests =>
      obtain ⟨hphase, hpos, hdwell, hcyc, hpend⟩ := hstruct.invalid_still hv
      obtain ⟨hdig, hseg⟩ := hstruct.blank_dark hphase
      refine ⟨?_, hpend⟩
      rw [FastRegs.mk.injEq]
      exact ⟨hphase, hpos, hdwell, hcyc, hdig, hseg⟩
  · intro ⟨hlegal, hfast, hslow, hrests⟩
    refine ⟨hlegal, ?shape, ?range, ?struct⟩
    case shape => exact { hslow with ring_length := hslow.window.length_eq }
    case range =>
      exact
        { hfast, hslow, hslow.window with
          dwell_lt := phaseLen_eq_phaseTicks s ▸ hfast.dwell_lt
          astate_le_six := hslow.astate_ne
          raw_le := Nat.le_of_lt_succ s.slow.raw.isLt
          sum_le := hslow.window.sum_le }
    case struct =>
      exact
        { hfast, hslow with
          sum_eq := hslow.window.sum_eq
          one_line := hfast.popcount_le hlegal
          invalid_still := fun hv => by
            obtain ⟨hf, hp⟩ := hrests hv
            rw [hf]
            exact ⟨rfl, rfl, rfl, rfl, hp⟩ }

/-! ### The invariant at reset -/

theorem fastInv_reset {c : Config} (hc : c.Legal) : FastInv c FastRegs.reset := by
  obtain ⟨hD, _, _, _, _, hK, _⟩ := legal_ranges hc
  exact
    { pos_lt := hD
      dwell_lt := phaseTicks_pos hc .blank
      cyc_lt := hK
      blank_dark := fun _ => ⟨rfl, rfl⟩
      lit_onehot := nofun }

theorem windowInv_zero {c : Config} (hc : c.Legal) : WindowInv c (List.replicate c.window 0) 0 0 := by
  obtain ⟨_, _, hN, _⟩ := legal_ranges hc
  exact
    { length_eq := List.length_replicate
      idx_lt := hN
      ring_le := fun x hx => by simp [List.eq_of_mem_replicate hx]
      sum_eq := by simp }

theorem slowInv_reset {c : Config} (hc : c.Legal) : SlowInv c (SlowRegs.reset c) where
  window := windowInv_zero hc
  bank0_length := List.length_replicate
  bank1_length := List.length_replicate
  build_seeded := by simp
  seedCnt_le := Nat.zero_le _
  astate_ne := nofun
  meas_le := Nat.zero_le _
  pubVal_le := Nat.zero_le _
  wcnt_lt := id
  wcnt_zero := fun _ => rfl
  seeding_fills := fun _ => ⟨rfl, fun j _ => by simp [ringAt], rfl⟩
  valid_seeded := nofun

/-- A state with every register at its reset value, whatever its other fields (70_reset_and_hazards.md R270). -/
theorem coreInv_of_reset {s : State} (hc : s.cfg.Legal) (hf : s.fast = FastRegs.reset)
    (hr : s.slow = SlowRegs.reset s.cfg) (hp : s.acqPend = false) : CoreInv s :=
  (coreInv_iff s).2 ⟨hc, hf ▸ fastInv_reset hc, hr ▸ slowInv_reset hc, fun _ => ⟨hf, hp⟩⟩

/-- After reset nothing is displayed and nothing is about to be published. -/
theorem displayInv_resetWith (c : Config) (vs : List InVec) : DisplayInv (State.resetWith c vs) := ⟨nofun, nofun⟩

/-- Settles O40: the reset values meet every clause, for the test configuration too. -/
theorem invariantsHoldAtReset : Obligations.InvariantsHoldAtReset := by
  have hreset (c : Config) (vs : List InVec) (hc : c.Legal) :
      CoreInv (State.resetWith c vs) ∧ DisplayInv (State.resetWith c vs) :=
    ⟨coreInv_of_reset hc rfl rfl rfl, displayInv_resetWith c vs⟩
  exact ⟨hreset, hreset Config.test [] (by decide)⟩

/-! ### One edge on the fast path -/

theorem cycAfterShow_lt {s : State} (hcyc : s.fast.cyc < s.cfg.cadence) : cycAfterShow s < s.cfg.cadence := by
  unfold cycAfterShow cadenceEnds
  split_ifs with _ hK
  · omega
  · have : s.fast.cyc ≠ s.cfg.cadence - 1 := by simpa using hK
    omega
  · exact hcyc

theorem fastAfter_keeps {s : State} (hc : s.cfg.Legal) (h : FastInv s.cfg s.fast) :
    FastInv s.cfg (fastAfter s) := by
  rcases fastAfter_cases s with ⟨_, hreset⟩ | ⟨_, ⟨_, hhold⟩ | ⟨_, _, hlast, hdwell⟩ |
    ⟨_, _, _, _, hshow⟩ | ⟨_, _, _, _, hblank⟩⟩
  · rw [hreset]
    exact fastInv_reset hc
  · rwa [hhold]
  · rw [hdwell]
    rw [phaseLen_eq_phaseTicks] at hlast
    exact { h with dwell_lt := Nat.lt_of_le_of_ne h.dwell_lt hlast }
  · rw [hshow]
    exact
      { h with
        dwell_lt := phaseTicks_pos hc .lit
        blank_dark := nofun
        lit_onehot := fun _ => rfl }
  · rw [hblank]
    exact
      { pos_lt := Nat.mod_lt _ (Nat.zero_lt_of_lt h.pos_lt)
        dwell_lt := phaseTicks_pos hc .blank
        cyc_lt := cycAfterShow_lt h.cyc_lt
        blank_dark := fun _ => ⟨rfl, rfl⟩
        lit_onehot := nofun }

/-! ### One edge on the slow path -/

/-- FILTER_WRITE of a clamped measurement (41_moving_average_filter.md R122). -/
theorem WindowInv.filterWrite {c : Config} {r : SlowRegs} {m : Nat} (h : WindowInv c r.ring r.idx r.sum)
    (hm : m ≤ 9999) :
    WindowInv c (filterWrite c r m).ring (filterWrite c r m).idx (filterWrite c r m).sum where
  length_eq := by simp [h.length_eq]
  idx_lt := Nat.mod_lt _ (Nat.zero_lt_of_lt h.idx_lt)
  ring_le := fun x hx => by
    rcases List.mem_or_eq_of_mem_set hx with hmem | rfl
    · exact h.ring_le x hmem
    · exact hm
  sum_eq := filterWrite_sum_eq c r m h.sum_eq (h.length_eq ▸ h.idx_lt)

/-- While the ring fills from the bottom, FILTER_WRITE takes the first of the entries that are still 0. -/
theorem ringAt_filterWrite_above {c : Config} {r : SlowRegs} {m j : Nat} (hi : r.idx < r.ring.length)
    (hzero : ∀ j, r.idx ≤ j → ringAt r j = 0) (hj : r.idx < j) : ringAt (filterWrite c r m) j = 0 := by
  have hring : ringAt (filterWrite c r m) j = ringAt (ringWrite r r.idx m) j := rfl
  rw [hring, ringAt_ringWrite r r.idx m j hi, if_neg hj.ne']
  exact hzero j hj.le

/-- ACQ_SEED: the ring holds one sample more, and the window is not yet full (R123). -/
theorem SlowInv.seed {c : Config} {r : SlowRegs} (h : SlowInv c r) (hlt : r.seedCnt + 1 < c.window) :
    SlowInv c { filterWrite c r r.meas with seedCnt := r.seedCnt + 1, astate := .idle } := by
  obtain ⟨hidx, hzero, hdark⟩ := h.seeding_fills (by omega)
  have hin : r.idx < r.ring.length := by rw [h.window.length_eq]; exact h.window.idx_lt
  exact
    { h with
      window := h.window.filterWrite h.meas_le
      build_seeded := by simp
      seedCnt_le := hlt.le
      astate_ne := nofun
      seeding_fills := fun _ =>
        ⟨by simp [hidx, Nat.mod_eq_of_lt hlt],
          fun j hj => ringAt_filterWrite_above (c := c) hin (by rwa [hidx]) (by rw [hidx]; exact hj), hdark⟩
      valid_seeded := fun hv => absurd (hdark.symm.trans hv) Bool.false_ne_true }

/-- ACQ_SEED_LAST and ACQ_UPDATE: one more sample in a window that is full afterwards (R124, R125). -/
theorem SlowInv.fill {c : Config} {r : SlowRegs} (h : SlowInv c r) :
    SlowInv c { filterWrite c r r.meas with seedCnt := c.window, astate := .build } :=
  { h with
    window := h.window.filterWrite h.meas_le
    build_seeded := fun _ => rfl
    seedCnt_le := le_rfl
    astate_ne := nofun
    seeding_fills := fun hlt => absurd hlt (lt_irrefl _)
    valid_seeded := fun _ => rfl }

theorem SlowInv.bankWrite {c : Config} {r : SlowRegs} (h : SlowInv c r) (b : Bool) {ps : List SegByte}
    (hps : ps.length = c.digits) : SlowInv c (bankWrite r b ps) := by
  cases b
  · exact { h with bank0_length := hps }
  · exact { h with bank1_length := hps }

/-- ACQ_POLL: the counter is below its last value, so it stays in range (44_acquisition_and_digit_buffer.md R206). -/
theorem SlowInv.poll {c : Config} {r : SlowRegs} (h : SlowInv c r)
    (ht : ¬ (0 < c.adcTimeout ∧ r.wcnt = c.adcTimeout - 1)) :
    SlowInv c { r with wcnt := if 0 < c.adcTimeout then r.wcnt + 1 else r.wcnt } :=
  { h with
    wcnt_lt := fun hT => by
      have := h.wcnt_lt hT
      simp only [if_pos hT]
      omega
    wcnt_zero := fun hT => by simp [hT, h.wcnt_zero hT] }

/-- ACQ_PUBLISH: the window is full, so a published value is one of a full window (R219). -/
theorem SlowInv.publish {c : Config} {r : SlowRegs} (h : SlowInv c r) (ha : r.astate = .publish) :
    SlowInv c { r with act := !r.act, dispValid := true, pubVal := average c r.sum, astate := .idle } :=
  have hfull : r.seedCnt = c.window := h.build_seeded (.inr ha)
  { h with
    build_seeded := fun _ => hfull
    astate_ne := nofun
    pubVal_le := h.window.average_le
    seeding_fills := fun hlt => absurd hfull hlt.ne
    valid_seeded := fun _ => hfull }

theorem slowAfter_keeps {s : State} (hc : s.cfg.Legal) (h : SlowInv s.cfg s.slow) :
    SlowInv s.cfg (slowAfter s) := by
  rcases slowAfter_cases s with ⟨_, hreset⟩ | ⟨_, ⟨_, _, hlaunch⟩ | ⟨_, _, hidle⟩ | ⟨_, hstart⟩ | ⟨_, _, hcapture⟩ |
    ⟨_, _, _, htimeout⟩ | ⟨_, _, htmo, hpoll⟩ | ⟨_, hscale⟩ | ⟨_, hfull, hupdate⟩ | ⟨_, _, hseedLast⟩ |
    ⟨_, hlt, hseed⟩ | ⟨ha, hbuild⟩ | ⟨ha, hpublish⟩ | ⟨ha, _⟩⟩
  · rw [hreset]
    exact slowInv_reset hc
  · rw [hlaunch]
    exact { h with build_seeded := by simp, astate_ne := nofun }
  · rwa [hidle]
  · rw [hstart]
    exact { h with build_seeded := by simp, astate_ne := nofun, wcnt_lt := id, wcnt_zero := fun _ => rfl }
  · rw [hcapture]
    exact { h with build_seeded := by simp, astate_ne := nofun }
  · rw [htimeout]
    exact { h with build_seeded := by simp, astate_ne := nofun, wcnt_lt := id, wcnt_zero := fun _ => rfl }
  · rw [hpoll]
    exact h.poll htmo
  · rw [hscale]
    exact { h with build_seeded := by simp, astate_ne := nofun, meas_le := scaleClamp_le _ _ }
  · have hcnt : s.slow.seedCnt = s.cfg.window := le_antisymm h.seedCnt_le (Nat.le_of_not_lt hfull)
    rw [hupdate]
    have hfill := h.fill
    rw [← hcnt] at hfill
    exact hfill
  · rw [hseedLast]
    exact h.fill
  · rw [hseed]
    exact h.seed hlt
  · have hcnt : s.slow.seedCnt = s.cfg.window := h.build_seeded (.inl ha)
    rw [hbuild]
    exact
      { h.bankWrite (!s.slow.act) (digitPatterns_length s.cfg _) with
        build_seeded := fun _ => by simpa using hcnt
        astate_ne := nofun }
  · rw [hpublish]
    exact h.publish ha
  · exact absurd ha h.astate_ne

/-! ### One edge of both agents -/

/-- No edge but a reset takes `disp_valid` away (10_state.md R39). -/
theorem slowAfter_dispValid_of_valid {s : State} (hr : rstIn s = false) (hv : s.slow.dispValid = true) :
    (slowAfter s).dispValid = true := by
  rcases slowAfter_cases s with ⟨hrst, _⟩ | ⟨_, hcase⟩
  · exact absurd (hr.symm.trans hrst) Bool.false_ne_true
  · rcases hcase with ⟨_, _, h⟩ | ⟨_, _, h⟩ | ⟨_, h⟩ | ⟨_, _, h⟩ | ⟨_, _, _, h⟩ | ⟨_, _, _, h⟩ | ⟨_, h⟩ | ⟨_, _, h⟩ |
      ⟨_, _, h⟩ | ⟨_, _, h⟩ | ⟨_, h⟩ | ⟨_, h⟩ | ⟨_, h⟩ <;> simp [h, hv]

/-- An edge whose input asserts `rst` gives every register its reset value (70_reset_and_hazards.md R270). -/
theorem step_of_rst {s t : State} (h : step s = .next t) (hr : rstIn s = true) :
    t.fast = FastRegs.reset ∧ t.slow = SlowRegs.reset s.cfg ∧ t.acqPend = false := by
  refine ⟨?_, (step_slow h).trans (slowAfter_rst hr), ?_⟩
  · rw [step_fast h]
    simp [fastAfter, hr]
  · simp [step_pend h, hr]

/-- Without a display no tick counts, so the fast path makes no request (43_refresh_scheduler.md R163). -/
theorem step_keeps_restsBeforePublish {s t : State} (h : step s = .next t) (hs : RestsBeforePublish s) :
    RestsBeforePublish t := by
  intro hv
  cases hr : rstIn s
  · have hv0 : s.slow.dispValid = false := by
      rw [step_slow h] at hv
      exact Bool.eq_false_of_not_eq_true fun hv1 =>
        Bool.false_ne_true (hv.symm.trans (slowAfter_dispValid_of_valid hr hv1))
    obtain ⟨hf, hp⟩ := hs hv0
    refine ⟨?_, by simp [step_pend h, hv0, hp]⟩
    rw [step_fast h, ← hf]
    simp [fastAfter, hr, hv0]
  · obtain ⟨hf, _, hp⟩ := step_of_rst h hr
    exact ⟨hf, hp⟩

/-- Settles O41: each agent's edge keeps its own part of the invariant, and the two together the part that joins them. -/
theorem everyStepKeepsInv : Obligations.EveryStepKeepsInv := by
  intro s t hs h
  obtain ⟨hc, hfast, hslow, hrests⟩ := (coreInv_iff s).1 hs
  obtain ⟨hcfg, -⟩ := step_frame h
  rw [coreInv_iff, hcfg, step_fast h, step_slow h]
  exact ⟨hc, fastAfter_keeps hc hfast, slowAfter_keeps hc hslow, step_keeps_restsBeforePublish h hrests⟩

/-! ### Runs -/

/-- A run from a state that meets the invariant completes in one that does. -/
theorem runEdges_keeps_coreInv (n : Nat) {s : State} (hs : CoreInv s) :
    ∃ t, runEdges n s = .next t ∧ CoreInv t := by
  induction n generalizing s with
  | zero => exact ⟨s, rfl, hs⟩
  | succ n ih =>
    obtain ⟨u, hu⟩ := step_completes hs.legal
    rw [runEdges_succ n hu]
    exact ih (everyStepKeepsInv s u hs hu)

theorem coreInv_after_rst {s t : State} (h : step s = .next t) (hr : rstIn s = true) : CoreInv t := by
  obtain ⟨hc, -⟩ := step_cases h
  obtain ⟨hcfg, -⟩ := step_frame h
  obtain ⟨hf, hw, hp⟩ := step_of_rst h hr
  rw [← hcfg] at hc hw
  exact coreInv_of_reset hc hf hw hp

/-- Settles O42: the reset edge establishes the invariant from any registers, and every further edge keeps it. -/
theorem reachableStatesMeetInvariants : Obligations.ReachableStatesMeetInvariants := by
  intro s n hc hr
  obtain ⟨u, hu⟩ := step_completes hc
  obtain ⟨t, ht, hinv⟩ := runEdges_keeps_coreInv n (coreInv_after_rst hu hr)
  exact ⟨t, (runEdges_succ n hu).trans ht, hinv.range, hinv.struct⟩

/-! ### One writer for each register -/

theorem exec_fastPath_frame {i : Instr} {s t : State} (ha : i.agent = .fastPath) (h : exec i s = .next t) :
    ∃ f p, t = { s with fast := f, acqPend := p } ∧ (i ≠ .schShowToBlank → p = s.acqPend) := by
  cases i <;> cases ha
  case schShowToBlank =>
    cases h
    exact ⟨_, _, rfl, fun hne => absurd rfl hne⟩
  all_goals
    cases h
    exact ⟨_, _, rfl, fun _ => rfl⟩

theorem exec_slowPath_frame {i : Instr} {s t : State} (ha : i.agent = .slowPath) (h : exec i s = .next t) :
    ∃ r p, t = { s with slow := r, acqPend := p } ∧ (i ≠ .acqLaunch → i ≠ .acqReset → p = s.acqPend) := by
  cases i <;> cases ha
  case acqLaunch =>
    cases h
    exact ⟨_, _, rfl, fun hne => absurd rfl hne⟩
  case acqReset =>
    cases h
    exact ⟨_, _, rfl, fun _ hne => absurd rfl hne⟩
  all_goals
    cases h
    exact ⟨_, _, rfl, fun _ _ => rfl⟩

theorem exec_function_frame {i : Instr} {s t : State} (ha : i.agent = .function) (h : exec i s = .next t) :
    ∃ o, t = { s with fnOut := o } := by
  cases i <;> cases ha
  all_goals
    cases h
    exact ⟨_, rfl⟩

/-- Settles O38, by the agent of the operation. -/
theorem eachRegisterHasOneWriter : Obligations.EachRegisterHasOneWriter := by
  intro i s t h
  cases ha : i.agent
  case fastPath =>
    obtain ⟨f, p, rfl, hp⟩ := exec_fastPath_frame ha h
    exact ⟨rfl, rfl, rfl, fun _ => ⟨rfl, rfl, hp⟩, nofun, nofun⟩
  case slowPath =>
    obtain ⟨r, p, rfl, hp⟩ := exec_slowPath_frame ha h
    exact ⟨rfl, rfl, rfl, nofun, fun _ => ⟨rfl, rfl, hp⟩, nofun⟩
  case function =>
    obtain ⟨o, rfl⟩ := exec_function_frame ha h
    exact ⟨rfl, rfl, rfl, nofun, nofun, fun _ => ⟨rfl, rfl, rfl⟩⟩

/-! ### The outputs -/

/-- The bits of four flags side by side, the last one bit 0. -/
theorem ofBool_append_bits (a b c d : Bool) :
    let v := BitVec.ofBool a ++ BitVec.ofBool b ++ BitVec.ofBool c ++ BitVec.ofBool d
    v.getLsbD 0 = d ∧ v.getLsbD 1 = c ∧ v.getLsbD 2 = b ∧ v.getLsbD 3 = a := by
  revert a b c d
  decide

/-- The fields of `status_o` (10_state.md R45). -/
theorem statusOut_bits (s : State) :
    (statusOut s).getLsbD 0 = s.slow.dispValid ∧ (statusOut s).getLsbD 1 = seeded s ∧
      (statusOut s).getLsbD 2 = busy s ∧ (statusOut s).getLsbD 3 = s.slow.acqFault :=
  ofBool_append_bits _ _ _ _

theorem adcChanO_toNat {s : State} (hc : s.cfg.Legal) : (outputs s).adcChanO.toNat = s.cfg.adcChannel := by
  obtain ⟨_, _, _, _, _, _, _, _, _, hCh⟩ := legal_ranges hc
  exact (BitVec.toNat_ofNat _ _).trans (Nat.mod_eq_of_lt hCh)

theorem valueO_toNat {s : State} (h : s.slow.pubVal ≤ 9999) : (outputs s).valueO.toNat = s.slow.pubVal :=
  (BitVec.toNat_ofNat _ _).trans (Nat.mod_eq_of_lt (Nat.lt_of_le_of_lt h (by decide)))

/-- Settles O39. -/
theorem outputsAreMooreFunctions : Obligations.OutputsAreMooreFunctions := by
  intro s
  obtain ⟨hvalid, hseeded, hbusy, hfault⟩ := statusOut_bits s
  exact ⟨rfl, rfl, decide_eq_true_iff, adcChanO_toNat, hvalid, hseeded, hbusy, hfault, valueO_toNat⟩

/-! ### What the slow path depends on -/

/-- `slowAfter` reads no register of the fast path, and of the inputs not the tick. -/
theorem slowAfter_congr {s₁ s₂ : State} (hcfg : s₁.cfg = s₂.cfg) (hslow : s₁.slow = s₂.slow)
    (hpend : s₁.acqPend = s₂.acqPend) (hrst : rstIn s₁ = rstIn s₂) (hdone : doneIn s₁ = doneIn s₂)
    (hdata : dataIn s₁ = dataIn s₂) : slowAfter s₁ = slowAfter s₂ := by
  unfold slowAfter
  rw [hcfg, hslow, hpend, hrst, hdone, hdata]

/-- Settles O54. -/
theorem slowPathSeesOnlyRequestBit : Obligations.SlowPathSeesOnlyRequestBit := by
  intro s₁ s₂ t₁ t₂ hcfg hslow hpend hrst hdone hdata h₁ h₂
  rw [step_slow h₁, step_slow h₂]
  exact slowAfter_congr hcfg hslow hpend hrst hdone hdata

end Sys2Proof.Proofs.Registers

/-! SUPPORT. The statements of 20_memory.md: what a digit shows when it is lit (R60), and what of the slow path the fast
path can see (R59). -/

namespace Sys2Proof.Proofs.Memory

open Sys2Proof Sys2Proof.Machine

/-! ### The digit that is lit -/

theorem onehot_eq_ofNat (p : Nat) : onehot p = BitVec.ofNat 8 (2 ^ p) := by
  refine BitVec.eq_of_toNat_eq ?_
  simp [onehot, Nat.one_shiftLeft]

/-- Without a display the fast path waits (43_refresh_scheduler.md R163), so a digit is lit only when there is one. -/
theorem dispValid_of_schBlankToShow {s : State} (hf : fastOp s = some .schBlankToShow) : s.slow.dispValid = true := by
  rw [fastOp_eq, Option.some.injEq] at hf
  cases hv : s.slow.dispValid
  · cases hr : rstIn s <;> simp [hr, hv] at hf
  · rfl

/-- The fast path's registers after an edge at which it performs SCH_BLANK_TO_SHOW (43_refresh_scheduler.md R166). -/
theorem step_fast_of_schBlankToShow {s t : State} (h : step s = .next t) (hf : fastOp s = some .schBlankToShow) :
    t.fast = { s.fast with
      seg := bankAt s.slow s.slow.act s.fast.pos, digEn := onehot s.fast.pos, phase := .lit, dwell := 0 } := by
  obtain ⟨-, f, a, tf, ta, hf', -, htf, -, rfl⟩ := step_cases h
  obtain rfl : f = .schBlankToShow := Option.some.inj (hf'.symm.trans hf)
  cases htf
  exact commitEdge_fast ..

/-- Settles O52: the entry comes from the displayed bank, which holds the patterns of the published value. -/
theorem shownDigitIsOfPublishedValue : Obligations.ShownDigitIsOfPublishedValue := by
  intro s t _ hdisp h hf
  have hbank := hdisp.shown (dispValid_of_schBlankToShow hf)
  rw [step_fast_of_schBlankToShow h hf, ← hbank]
  exact ⟨onehot_eq_ofNat s.fast.pos, rfl⟩

/-! ### What the fast path depends on -/

theorem phaseLen_congr {s₁ s₂ : State} (hcfg : s₁.cfg = s₂.cfg) (hfast : s₁.fast = s₂.fast) :
    phaseLen s₁ = phaseLen s₂ := by
  rw [phaseLen_eq, phaseLen_eq, hcfg, hfast]

theorem cycAfterShow_congr {s₁ s₂ : State} (hcfg : s₁.cfg = s₂.cfg) (hfast : s₁.fast = s₂.fast) :
    cycAfterShow s₁ = cycAfterShow s₂ := by
  unfold cycAfterShow cycleEnds cadenceEnds
  rw [hcfg, hfast]

/-- `fastAfter` reads of the slow path `disp_valid` and the displayed entry alone, and of the inputs `rst` and the
tick. -/
theorem fastAfter_congr {s₁ s₂ : State} (hcfg : s₁.cfg = s₂.cfg) (hfast : s₁.fast = s₂.fast)
    (hvalid : s₁.slow.dispValid = s₂.slow.dispValid)
    (hentry : bankAt s₁.slow s₁.slow.act s₁.fast.pos = bankAt s₂.slow s₂.slow.act s₂.fast.pos)
    (hrst : rstIn s₁ = rstIn s₂) (htick : tickIn s₁ = tickIn s₂) : fastAfter s₁ = fastAfter s₂ := by
  unfold fastAfter
  rw [hentry, phaseLen_congr hcfg hfast, cycAfterShow_congr hcfg hfast, hcfg, hfast, hvalid, hrst, htick]

/-- Settles O53. -/
theorem fastPathSeesOnlyDisplayedEntry : Obligations.FastPathSeesOnlyDisplayedEntry := by
  intro s₁ s₂ t₁ t₂ hcfg hfast hvalid hentry hrst htick h₁ h₂
  rw [step_fast h₁, step_fast h₂]
  exact fastAfter_congr hcfg hfast hvalid hentry hrst htick

end Sys2Proof.Proofs.Memory

/-! SUPPORT. The statements of 30_encoding.md: the select vectors and their tables (R71 to R75), the operand words of the
functions (R78), and the input vectors and stimulus programs (R80, R81). -/

namespace Sys2Proof.Proofs.Encoding

open Sys2Proof Sys2Proof.Machine

/-! ### The tables of the select vectors -/

/-- Two rows that disagree in a bit that both masks keep, so that no select vector matches both. -/
abbrev RowsConflict {w : Nat} (r r' : SelRow w) : Prop := r.pattern &&& r'.mask ≠ r'.pattern &&& r.mask

theorem RowsConflict.not_both_match {w : Nat} {r r' : SelRow w} (h : RowsConflict r r') {v : BitVec w}
    (hr : rowMatches r v = true) (hr' : rowMatches r' v = true) : False := by
  rw [rowMatches, beq_iff_eq] at hr hr'
  refine h ?_
  rw [← hr, ← hr', BitVec.and_assoc, BitVec.and_assoc, BitVec.and_comm r.mask]

theorem length_filter_le_one {w : Nat} {rows : List (SelRow w)} (hrows : rows.Pairwise RowsConflict) (v : BitVec w) :
    (rows.filter (rowMatches · v)).length ≤ 1 := by
  have hconf := hrows.filter (rowMatches · v)
  have hmatch : ∀ r ∈ rows.filter (rowMatches · v), rowMatches r v = true := fun r hr => (List.mem_filter.1 hr).2
  cases hf : rows.filter (rowMatches · v) with
  | nil => exact Nat.zero_le _
  | cons r rs =>
    cases rs with
    | nil => exact Nat.le_refl _
    | cons r' rs =>
      rw [hf] at hconf hmatch
      have hpair : RowsConflict r r' := List.rel_of_pairwise_cons hconf (by simp)
      exact (hpair.not_both_match (hmatch r (by simp)) (hmatch r' (by simp))).elim

/-- A selected operation is that of a row which the vector matches. The first hypothesis is `decodeSsel v = some i` or
`decodeAsel v = some i`, for the rows of R72 or R74. -/
theorem exists_row_of_selected {w : Nat} {rows : List (SelRow w)} {v : BitVec w} {i : Instr}
    (h : (rows.find? (rowMatches · v)).map (·.op) = some i) : ∃ r ∈ rows, rowMatches r v = true ∧ r.op = i := by
  obtain ⟨r, hr, hop⟩ := Option.map_eq_some_iff.1 h
  exact ⟨r, List.mem_of_find?_eq_some hr, List.find?_some (p := (rowMatches · v)) hr, hop⟩

theorem length_filter_of_selected {w : Nat} {rows : List (SelRow w)} (hrows : rows.Pairwise RowsConflict)
    {v : BitVec w} {i : Instr} (h : (rows.find? (rowMatches · v)).map (·.op) = some i) :
    (rows.filter (rowMatches · v)).length = 1 := by
  obtain ⟨r, hr, hmatch, -⟩ := exists_row_of_selected h
  exact Nat.le_antisymm (length_filter_le_one hrows v) (List.length_filter_pos_iff.2 ⟨r, hr, hmatch⟩)

theorem sselRows_conflict : sselRows.Pairwise RowsConflict := by decide

theorem aselRows_conflict : aselRows.Pairwise RowsConflict := by decide

theorem sselRows_agent : ∀ r ∈ sselRows, r.op.agent = .fastPath := by decide

theorem aselRows_agent : ∀ r ∈ aselRows, r.op.agent = .slowPath := by decide

theorem exists_sselRow_of_agent {i : Instr} (h : i.agent = .fastPath) : ∃ r ∈ sselRows, r.op = i := by
  cases i <;> cases h <;> decide

theorem exists_aselRow_of_agent {i : Instr} (h : i.agent = .slowPath) : ∃ r ∈ aselRows, r.op = i := by
  cases i <;> cases h <;> decide

/-! ### Every select vector is assembled from fields -/

theorem astateCode_ofCode (b : BitVec 3) : astateCode (astateOfCode b) = b := by
  revert b
  decide

theorem packSsel_of_bits (v : SselWord) :
    packSsel (v.getLsbD 4) (v.getLsbD 3) (v.getLsbD 2) (v.getLsbD 1) (v.getLsbD 0) = v := by
  revert v
  decide

/-- A value of `ASEL` is determined by its fields (R73). -/
theorem aselWord_ext {v v' : AselWord} (h8 : v.getLsbD 8 = v'.getLsbD 8)
    (h75 : v.extractLsb' 5 3 = v'.extractLsb' 5 3) (h4 : v.getLsbD 4 = v'.getLsbD 4) (h3 : v.getLsbD 3 = v'.getLsbD 3)
    (h2 : v.getLsbD 2 = v'.getLsbD 2) (h1 : v.getLsbD 1 = v'.getLsbD 1) (h0 : v.getLsbD 0 = v'.getLsbD 0) : v = v' := by
  have hmid (j : Nat) (hj : j < 3) : v.getLsbD (5 + j) = v'.getLsbD (5 + j) := by
    simpa only [BitVec.getLsbD_extractLsb', hj, decide_true, Bool.true_and] using congrArg (·.getLsbD j) h75
  refine BitVec.eq_of_getLsbD_eq fun i hi => ?_
  obtain rfl | rfl | rfl | rfl | rfl | rfl | rfl | rfl | rfl :
      i = 0 ∨ i = 1 ∨ i = 2 ∨ i = 3 ∨ i = 4 ∨ i = 5 ∨ i = 6 ∨ i = 7 ∨ i = 8 := by omega
  exacts [h0, h1, h2, h3, h4, hmid 0 (by decide), hmid 1 (by decide), hmid 2 (by decide), h8]

theorem packAsel_of_bits (v : AselWord) :
    packAsel (v.getLsbD 8) (v.extractLsb' 5 3) (v.getLsbD 4) (v.getLsbD 3) (v.getLsbD 2) (v.getLsbD 1)
      (v.getLsbD 0) = v := by
  obtain ⟨h8, h75, h4, h3, h2, h1, h0⟩ := packAsel_bits (v.getLsbD 8) (v.extractLsb' 5 3) (v.getLsbD 4)
    (v.getLsbD 3) (v.getLsbD 2) (v.getLsbD 1) (v.getLsbD 0)
  exact aselWord_ext h8 h75 h4 h3 h2 h1 h0

/-- R75 for the fast path: every value of `SSEL` selects an operation. -/
theorem decodeSsel_selects (v : SselWord) : ∃ i, decodeSsel v = some i := by
  rw [← packSsel_of_bits v]
  exact ⟨_, decodeSsel_pack _ _ _ _ _⟩

/-- R75 for the slow path: every value of `ASEL` selects an operation. -/
theorem decodeAsel_selects (v : AselWord) : ∃ i, decodeAsel v = some i := by
  rw [← packAsel_of_bits v, ← astateCode_ofCode (v.extractLsb' 5 3)]
  exact ⟨_, decodeAsel_pack _ _ _ _ _ _ _⟩

theorem agent_of_decodeSsel {v : SselWord} {i : Instr} (h : decodeSsel v = some i) : i.agent = .fastPath := by
  obtain ⟨r, hr, -, rfl⟩ := exists_row_of_selected h
  exact sselRows_agent r hr

theorem agent_of_decodeAsel {v : AselWord} {i : Instr} (h : decodeAsel v = some i) : i.agent = .slowPath := by
  obtain ⟨r, hr, -, rfl⟩ := exists_row_of_selected h
  exact aselRows_agent r hr

/-- Settles O27: no two rows of a table match together, and every vector selects some row. -/
theorem eachAgentSelectsExactlyOneOperation : Obligations.EachAgentSelectsExactlyOneOperation := by
  refine ⟨fun v => ?_, fun v => ?_, fun s => ?_, fun s => ?_⟩
  · obtain ⟨i, hi⟩ := decodeSsel_selects v
    exact length_filter_of_selected sselRows_conflict hi
  · obtain ⟨i, hi⟩ := decodeAsel_selects v
    exact length_filter_of_selected aselRows_conflict hi
  · obtain ⟨f, hf⟩ := decodeSsel_selects (ssel s)
    exact ⟨f, hf, agent_of_decodeSsel hf⟩
  · obtain ⟨a, ha⟩ := decodeAsel_selects (asel s)
    exact ⟨a, ha, agent_of_decodeAsel ha⟩

/-! ### The bits of the select vectors -/

theorem last_eq (s : State) :
    last s = decide (s.fast.dwell + 1 = if s.fast.phase = .lit then s.cfg.onTicks else s.cfg.blankTicks) := by
  rw [last, phaseLen_eq]

theorem go_eq (s : State) : go s = decide (s.slow.seedCnt < s.cfg.window ∨ s.acqPend = true) := by
  rw [go, seeding, Bool.decide_or, Bool.decide_eq_true]

/-- Settles O26. -/
theorem selectVectorsAssembled : Obligations.SelectVectorsAssembled := by
  intro s
  obtain ⟨hrst, hvalid, htick, hphase, hlast⟩ :=
    packSsel_bits (rstIn s) s.slow.dispValid (tickIn s) (phaseBit s.fast.phase) (last s)
  obtain ⟨hrst', hastate, hgo, hdone, htmo, hseeding, hseedLast⟩ :=
    packAsel_bits (rstIn s) (astateCode s.slow.astate) (go s) (doneIn s) (tmo s) (seeding s) (seedLast s)
  refine ⟨hrst, hvalid, htick, hphase.trans (phaseBit_eq _), hlast.trans (last_eq s), hrst', hastate.trans ?_,
    hgo.trans (go_eq s), hdone, htmo, hseeding, hseedLast⟩
  cases s.slow.astate <;> rfl

/-! ### Decoding an encoded operation -/

theorem encodeWord_lt (c : Config) : ∀ i : Instr, i.wf c = true → encodeWord i < 2 ^ formatWidth c (formatOf i)
  | .segEncode d dp => Laws.EncodeFits.segEncode d dp c
  | .average sum => Laws.EncodeFits.average sum c
  | .scaleClamp raw => Laws.EncodeFits.scaleClamp raw c
  | .decSplit v => Laws.EncodeFits.decSplit v c
  | .digitPatterns v => Laws.EncodeFits.digitPatterns v c
  | .schReset => Laws.EncodeFits.schReset c
  | .schWaitValid => Laws.EncodeFits.schWaitValid c
  | .schNoTick => Laws.EncodeFits.schNoTick c
  | .schDwell => Laws.EncodeFits.schDwell c
  | .schBlankToShow => Laws.EncodeFits.schBlankToShow c
  | .schShowToBlank => Laws.EncodeFits.schShowToBlank c
  | .acqReset => Laws.EncodeFits.acqReset c
  | .acqIdle => Laws.EncodeFits.acqIdle c
  | .acqLaunch => Laws.EncodeFits.acqLaunch c
  | .acqStart => Laws.EncodeFits.acqStart c
  | .acqPoll => Laws.EncodeFits.acqPoll c
  | .acqCapture => Laws.EncodeFits.acqCapture c
  | .acqTimeout => Laws.EncodeFits.acqTimeout c
  | .acqReservedState => Laws.EncodeFits.acqReservedState c
  | .acqScale => Laws.EncodeFits.acqScale c
  | .acqSeed => Laws.EncodeFits.acqSeed c
  | .acqSeedLast => Laws.EncodeFits.acqSeedLast c
  | .acqUpdate => Laws.EncodeFits.acqUpdate c
  | .acqBuild => Laws.EncodeFits.acqBuild c
  | .acqPublish => Laws.EncodeFits.acqPublish c

/-- The encoder writes the `match` column of R72, and that word selects its own row. -/
theorem decodeFitting_encode_sselRow :
    ∀ r ∈ sselRows, encode r.op = (.ssel, r.pattern.toNat) ∧ decodeFitting .ssel r.pattern.toNat = .ok r.op := by
  decide

/-- The encoder writes the `match` column of R74, and that word selects its own row. -/
theorem decodeFitting_encode_aselRow :
    ∀ r ∈ aselRows, encode r.op = (.asel, r.pattern.toNat) ∧ decodeFitting .asel r.pattern.toNat = .ok r.op := by
  decide

/-- The two operand fields of a SEG_ENCODE word (R78). -/
theorem segEncode_fields (d : Digit) (dp : Bool) :
    BitVec.ofNat 4 (dp.toNat * 16 + d.toNat) = d ∧ (dp.toNat * 16 + d.toNat).testBit 4 = dp := by
  revert d dp
  decide

theorem decodeFitting_encode_function {i : Instr} (h : i.agent = .function) :
    decodeFitting (formatOf i) (encodeWord i) = .ok i := by
  cases i with
  | segEncode d dp =>
    obtain ⟨hd, hdp⟩ := segEncode_fields d dp
    rw [formatOf, encodeWord, decodeFitting, hd, hdp]
  | average sum => rfl
  | scaleClamp x | decSplit x | digitPatterns x =>
    rw [formatOf, encodeWord, decodeFitting, BitVec.ofNat_toNat, BitVec.setWidth_eq]
  | _ => cases h

theorem decodeFitting_encode (i : Instr) : decodeFitting (formatOf i) (encodeWord i) = .ok i := by
  cases ha : i.agent with
  | fastPath =>
    obtain ⟨r, hr, rfl⟩ := exists_sselRow_of_agent ha
    obtain ⟨hword, hdec⟩ := decodeFitting_encode_sselRow r hr
    obtain ⟨hf, hw⟩ := Prod.mk.inj hword
    rwa [hf, hw]
  | slowPath =>
    obtain ⟨r, hr, rfl⟩ := exists_aselRow_of_agent ha
    obtain ⟨hword, hdec⟩ := decodeFitting_encode_aselRow r hr
    obtain ⟨hf, hw⟩ := Prod.mk.inj hword
    rwa [hf, hw]
  | function => exact decodeFitting_encode_function ha

/-- Settles O28: an operation's word fits its format, and read there it gives the operation back. -/
theorem decodeOfEncodeIsIdentity : Obligations.DecodeOfEncodeIsIdentity :=
  fun c i hwf => (if_pos (encodeWord_lt c i hwf)).trans (decodeFitting_encode i)

/-! ### Encoding a decoded operand word -/

theorem decode_of_wide {c : Config} {f : Format} {w : Nat} (h : 2 ^ formatWidth c f ≤ w) :
    decode c f w = .error (.tooWide f) :=
  if_neg (Nat.not_lt.2 h)

theorem decode_eq_ok_iff {c : Config} {f : Format} {w : Nat} {i : Instr} :
    decode c f w = .ok i ↔ w < 2 ^ formatWidth c f ∧ decodeFitting f w = .ok i := by
  unfold decode
  split <;> simp [*]

theorem segEncode_word {w : Nat} (h : w < 2 ^ 5) : (w.testBit 4).toNat * 16 + (BitVec.ofNat 4 w).toNat = w := by
  rw [Nat.toNat_testBit, BitVec.toNat_ofNat]
  omega

/-- A word that fits a function's format is the word of the operation read from it. -/
theorem encode_of_decodeFitting {c : Config} {f : Format} {w : Nat} {i : Instr} (hs : f ≠ .ssel) (ha : f ≠ .asel)
    (hw : w < 2 ^ formatWidth c f) (h : decodeFitting f w = .ok i) : encode i = (f, w) ∧ i.wf c = true := by
  cases f with
  | ssel => exact absurd rfl hs
  | asel => exact absurd rfl ha
  | segEncode =>
    cases h
    exact ⟨congrArg (Prod.mk _) (segEncode_word hw), rfl⟩
  | average =>
    cases h
    exact ⟨rfl, decide_eq_true hw⟩
  | scaleClamp | decSplit | digitPatterns =>
    cases h
    exact ⟨congrArg (Prod.mk _) (BitVec.toNat_ofNat _ _ |>.trans (Nat.mod_eq_of_lt hw)), rfl⟩

/-- Settles O29. -/
theorem functionWordsHaveOneMeaning : Obligations.FunctionWordsHaveOneMeaning := by
  refine ⟨fun c f w i hs ha h => ?_, fun c f w h => decode_of_wide h⟩
  obtain ⟨hw, hi⟩ := decode_eq_ok_iff.1 h
  exact encode_of_decodeFitting hs ha hw hi

/-- Settles O30: each word is closed, so its row is found by evaluation. -/
theorem tableWordsDecode : Obligations.TableWordsDecode := by
  unfold Obligations.TableWordsDecode
  decide

/-! ### Input vectors and stimulus programs -/

/-- An input vector is determined by its fields (R80). -/
theorem inVec_ext {v v' : InVec} (hrst : inRst v = inRst v') (htick : inTick v = inTick v')
    (hdone : inDone v = inDone v') (hdata : inData v = inData v') : v = v' := by
  refine BitVec.eq_of_getLsbD_eq fun i hi => ?_
  by_cases hlow : i < 10
  · simpa [inData, hlow] using congrArg (·.getLsbD i) hdata
  · obtain rfl | rfl | rfl : i = 10 ∨ i = 11 ∨ i = 12 := by omega
    exacts [hdone, htick, hrst]

/-- The data occupy the low 10 bits, below the three flags. -/
theorem packInput_eq_or (r t d : Bool) (x : RawSample) : packInput r t d x = packInput r t d 0 ||| x.setWidth 13 := by
  refine BitVec.eq_of_getLsbD_eq fun i hi => ?_
  rw [BitVec.getLsbD_or, packInput_bit, packInput_bit, BitVec.getLsbD_setWidth]
  by_cases hlow : i < 10
  · simp [hlow, hi]
  · simp [hlow, BitVec.getLsbD_of_ge x i (Nat.le_of_not_lt hlow)]

theorem packInput_toNat (r t d : Bool) (x : RawSample) :
    (packInput r t d x).toNat = r.toNat * 2 ^ 12 + t.toNat * 2 ^ 11 + d.toNat * 2 ^ 10 + x.toNat := by
  have hflags : (BitVec.ofBool r ++ BitVec.ofBool t ++ BitVec.ofBool d).toNat =
      r.toNat * 2 ^ 2 + t.toNat * 2 + d.toNat := by
    revert r t d
    decide
  rw [packInput, BitVec.toNat_append, ← Nat.shiftLeft_add_eq_or_of_lt x.isLt, hflags, Nat.shiftLeft_eq]
  ring

/-- The converter's pseudo-vectors are assembled vectors (R81). -/
theorem expandVector_data (x : RawSample) :
    expandVector (.done x) = packInput false false true x ∧
      expandVector (.tickDone x) = packInput false true true x ∧
      expandVector (.data x) = packInput false false false x := by
  refine ⟨(packInput_eq_or false false true x).symm, (packInput_eq_or false true true x).symm, ?_⟩
  exact BitVec.zero_or.symm.trans (packInput_eq_or false false false x).symm

theorem expandProgram_length (p : List StimLine) : (expandProgram p).length = (p.map StimLine.count).sum := by
  induction p with
  | nil => rfl
  | cons l ls ih => rw [expandProgram, List.length_append, List.length_replicate, ih, List.map_cons, List.sum_cons]

/-- Settles O31. -/
theorem inputVectorsAndNotation : Obligations.InputVectorsAndNotation := by
  refine ⟨fun r t d x => ?_, fun v => ?_, fun x => ⟨rfl, rfl, rfl, expandVector_data x⟩, expandProgram_length⟩
  · rw [← packInput_toNat]
    exact ((BitVec.ofNat_toNat 13 _).trans (BitVec.setWidth_eq _)).symm
  · obtain ⟨hrst, htick, hdone, hdata⟩ := packInput_fields (inRst v) (inTick v) (inDone v) (inData v)
    exact inVec_ext hrst htick hdone hdata

end Sys2Proof.Proofs.Encoding

/-! SUPPORT. The statements of 40_segment_encoder_lut.md: the byte of SEG_ENCODE (R102, R104). -/

namespace Sys2Proof.Proofs.SegmentEncoder

open Sys2Proof Sys2Proof.Machine

/-- SEG_ENCODE writes no register (R102): only the model's own field `fnOut` receives its result. -/
theorem exec_segEncode (d : Digit) (dp : Bool) (s : State) :
    exec (.segEncode d dp) s = .next { s with fnOut := some (.pattern (segEncode s.cfg d dp)) } := rfl

/-- `dp << 7`: the decimal point stands alone in bit 7. -/
theorem pointBit_getLsbD (dp : Bool) (j : Nat) :
    ((BitVec.ofBool dp).setWidth 8 <<< 7).getLsbD j = (decide (j = 7) && dp) := by
  rw [BitVec.getLsbD_shiftLeft, BitVec.getLsbD_setWidth, BitVec.getLsbD_ofBool]
  rcases Nat.lt_trichotomy j 7 with hlt | rfl | hgt
  · simp [hlt, Nat.ne_of_lt hlt]
  · simp
  · have hsub : j - 7 ≠ 0 := by omega
    simp [hsub, Nat.ne_of_gt hgt]

/-- A table entry has 7 bits, so extended to a byte it leaves bit 7 free for the point. -/
theorem segEncode_getLsbD (c : Config) (d : Digit) (dp : Bool) {j : Nat} (hj : j < 8) :
    (segEncode c d dp).getLsbD j =
      ((c.segTable.getD (d.toNat % 10) 0).getLsbD j || (decide (j = 7) && dp)) := by
  rw [segEncode, segTableAt, BitVec.getLsbD_or, pointBit_getLsbD, BitVec.getLsbD_setWidth, decide_eq_true hj,
    Bool.true_and]

/-- Bit 7 is the point, whatever the table entry (R104). -/
theorem segEncode_pointBit (c : Config) (d : Digit) (dp : Bool) : (segEncode c d dp).getLsbD 7 = dp := by
  rw [segEncode_getLsbD c d dp (by decide), BitVec.getLsbD_of_ge _ 7 le_rfl]
  simp

/-- Bits 6:0 are the table entry, whatever the point (R104). -/
theorem segEncode_segmentBits (c : Config) (d : Digit) (dp : Bool) {j : Nat} (hj : j < 7) :
    (segEncode c d dp).getLsbD j = (c.segTable.getD (d.toNat % 10) 0).getLsbD j := by
  rw [segEncode_getLsbD c d dp (by omega)]
  simp [Nat.ne_of_lt hj]

/-- Settles O20: the arm of `exec`, then bit 7 and the seven bits below it. -/
theorem segEncodeLooksUpDigit : Obligations.SegEncodeLooksUpDigit :=
  ⟨fun s d dp => exec_segEncode d dp s,
    fun c d dp => ⟨segEncode_pointBit c d dp, fun _ => segEncode_segmentBits c d dp⟩⟩

end Sys2Proof.Proofs.SegmentEncoder

/-! SUPPORT. The statements of 41_moving_average_filter.md: the operations of FILTER (R123 to R125), AVERAGE (R126), and
the filter window in order of age (R127, R129). -/

namespace Sys2Proof.Proofs.MovingAverage

open Sys2Proof Sys2Proof.Machine Sys2Proof.Proofs.Registers

/-! ### The window in order of age -/

/-- FILTER_WRITE as one update of the pre-edge registers (R122). -/
theorem filterWrite_eq (c : Config) (r : SlowRegs) (m : Nat) :
    filterWrite c r m = { r with
      sum := r.sum - r.ring.getD r.idx 0 + m
      ring := r.ring.set r.idx m
      idx := (r.idx + 1) % c.window } := rfl

theorem windowByAge_eq_rotate {r : SlowRegs} (h : r.idx ≤ r.ring.length) : windowByAge r = r.ring.rotate r.idx :=
  (List.rotate_eq_drop_append_take h).symm

theorem windowByAge_sum (r : SlowRegs) : (windowByAge r).sum = r.ring.sum := by
  rw [windowByAge, List.sum_append, Nat.add_comm, List.sum_take_add_sum_drop]

/-- The oldest entry, the one `idx` names, is the first. -/
theorem windowByAge_drop_one {r : SlowRegs} (h : r.idx < r.ring.length) :
    (windowByAge r).drop 1 = r.ring.drop (r.idx + 1) ++ r.ring.take r.idx := by
  rw [windowByAge, List.drop_eq_getElem_cons h]
  rfl

/-- FILTER_WRITE drops the oldest entry and appends the new one (R129). As a rotation of the ring, the window does not
see where `idx` wraps. -/
theorem windowByAge_filterWrite {c : Config} {r : SlowRegs} (h : WindowInv c r.ring r.idx r.sum) (m : Nat) :
    windowByAge (filterWrite c r m) = (windowByAge r).drop 1 ++ [m] := by
  have hi : r.idx < r.ring.length := h.length_eq ▸ h.idx_lt
  have hi' : (r.idx + 1) % c.window ≤ (r.ring.set r.idx m).length := by
    rw [List.length_set, h.length_eq]
    exact (Nat.mod_lt _ (Nat.zero_lt_of_lt h.idx_lt)).le
  have hset : r.idx < (r.ring.set r.idx m).length := by rwa [List.length_set]
  calc windowByAge (filterWrite c r m)
    _ = (r.ring.set r.idx m).rotate ((r.idx + 1) % c.window) := windowByAge_eq_rotate hi'
    _ = (r.ring.set r.idx m).rotate (r.idx + 1) := by
        rw [← h.length_eq, ← List.length_set (as := r.ring) (i := r.idx) (a := m), List.rotate_mod]
    _ = (r.ring.set r.idx m).drop (r.idx + 1) ++ (r.ring.set r.idx m).take (r.idx + 1) :=
        List.rotate_eq_drop_append_take hset
    _ = r.ring.drop (r.idx + 1) ++ (r.ring.take r.idx ++ [m]) := by
        rw [List.drop_set_of_lt (Nat.lt_succ_self _), List.take_succ_eq_append_getElem hset, List.getElem_set_self,
          List.take_set_of_le le_rfl]
    _ = (windowByAge r).drop 1 ++ [m] := by rw [windowByAge_drop_one hi, List.append_assoc]

/-- R127: after FILTER_WRITE, `sum` is the sum of the new window. -/
theorem filterWrite_sum_eq_windowByAge {c : Config} {r : SlowRegs} (h : WindowInv c r.ring r.idx r.sum) (m : Nat) :
    (filterWrite c r m).sum = ((windowByAge r).drop 1 ++ [m]).sum := by
  rw [← windowByAge_filterWrite h, windowByAge_sum]
  exact filterWrite_sum_eq c r m h.sum_eq (h.length_eq ▸ h.idx_lt)

/-! ### The operations of FILTER -/

/-- What the slow path performs in FILTER (30_encoding.md R74): the seed count alone decides. -/
def filterOp (s : State) : Instr :=
  if s.slow.seedCnt < s.cfg.window then (if s.slow.seedCnt + 1 = s.cfg.window then .acqSeedLast else .acqSeed)
  else .acqUpdate

theorem slowOp_of_filter {s : State} (hr : rstIn s = false) (ha : s.slow.astate = .filter) :
    slowOp s = some (filterOp s) := by
  rw [slowOp_eq, hr, ha, filterOp]
  by_cases hw : s.slow.seedCnt < s.cfg.window
  · by_cases hl : s.slow.seedCnt + 1 = s.cfg.window <;> simp [seeding, seedLast, hw, hl]
  · simp [seeding, hw]

/-- Outside FILTER, and under reset, none of its three operations is selected. -/
theorem filter_of_slowOp {s : State} {a : Instr} (h : slowOp s = some a)
    (ha : a = .acqSeed ∨ a = .acqSeedLast ∨ a = .acqUpdate) : rstIn s = false ∧ s.slow.astate = .filter := by
  rw [slowOp_eq, Option.some.injEq] at h
  subst h
  cases hr : rstIn s
  · refine ⟨rfl, ?_⟩
    cases hs : s.slow.astate
    case filter => rfl
    case idle => cases hg : go s <;> simp [hr, hs, hg] at ha
    case wait => cases hd : doneIn s <;> cases ht : tmo s <;> simp [hr, hs, hd, ht] at ha
    all_goals simp [hr, hs] at ha
  · simp [hr] at ha

theorem slowOp_eq_some_iff_filterOp {s : State} {a : Instr} (ha : a = .acqSeed ∨ a = .acqSeedLast ∨ a = .acqUpdate) :
    slowOp s = some a ↔ rstIn s = false ∧ s.slow.astate = .filter ∧ filterOp s = a := by
  constructor
  · intro h
    obtain ⟨hr, hs⟩ := filter_of_slowOp h ha
    exact ⟨hr, hs, Option.some.inj ((slowOp_of_filter hr hs).symm.trans h)⟩
  · rintro ⟨hr, hs, rfl⟩
    exact slowOp_of_filter hr hs

theorem filterOp_eq_acqSeed_iff (s : State) : filterOp s = .acqSeed ↔ s.slow.seedCnt < s.cfg.window - 1 := by
  unfold filterOp
  split_ifs <;> simp <;> omega

theorem filterOp_eq_acqSeedLast_iff (s : State) : filterOp s = .acqSeedLast ↔ s.slow.seedCnt + 1 = s.cfg.window := by
  unfold filterOp
  split_ifs <;> simp <;> omega

theorem filterOp_eq_acqUpdate_iff {s : State} (h : s.slow.seedCnt ≤ s.cfg.window) :
    filterOp s = .acqUpdate ↔ s.slow.seedCnt = s.cfg.window := by
  unfold filterOp
  split_ifs <;> simp <;> omega

theorem exec_acqSeed (s : State) :
    exec .acqSeed s = .next { s with
      slow := { filterWrite s.cfg s.slow s.slow.meas with seedCnt := s.slow.seedCnt + 1, astate := .idle } } := rfl

theorem exec_acqSeedLast (s : State) :
    exec .acqSeedLast s = .next { s with
      slow := { filterWrite s.cfg s.slow s.slow.meas with seedCnt := s.cfg.window, astate := .build } } := rfl

theorem exec_acqUpdate (s : State) :
    exec .acqUpdate s = .next { s with
      slow := { filterWrite s.cfg s.slow s.slow.meas with astate := .build } } := rfl

/-- AVERAGE writes no register (R126): only the model's own field `fnOut` receives its result. -/
theorem exec_average (sum : Nat) (s : State) :
    exec (.average sum) s = .next { s with fnOut := some (.value (average s.cfg sum)) } := rfl

/-! ### The obligations -/

/-- Settles O15. -/
theorem acqSeedWritesOneSample : Obligations.AcqSeedWritesOneSample := by
  refine ⟨fun s => ?_, fun s _ _ => ?_⟩
  · rw [slowOp_eq_some_iff_filterOp (by simp), filterOp_eq_acqSeed_iff]
  · rw [exec_acqSeed, filterWrite_eq]

/-- Settles O16. -/
theorem acqSeedLastCompletesWindow : Obligations.AcqSeedLastCompletesWindow := by
  refine ⟨fun s => ?_, fun s _ _ => ?_⟩
  · rw [slowOp_eq_some_iff_filterOp (by simp), filterOp_eq_acqSeedLast_iff]
  · rw [exec_acqSeedLast, filterWrite_eq]

/-- Settles O17: the range invariant keeps the seed count from passing `N`, so not seeding is a full window. -/
theorem acqUpdateEvictsOldest : Obligations.AcqUpdateEvictsOldest := by
  refine ⟨fun s hrange => ?_, fun s _ _ => ?_⟩
  · rw [slowOp_eq_some_iff_filterOp (by simp), filterOp_eq_acqUpdate_iff hrange.seedCnt_le]
  · rw [exec_acqUpdate, filterWrite_eq]

/-- Settles O21. -/
theorem averageFloorDivides : Obligations.AverageFloorDivides := fun s sum => exec_average sum s

/-- Settles O45: the window turns by one entry at a time, and `sum` follows it. -/
theorem updateAveragesLastWindow : Obligations.UpdateAveragesLastWindow := by
  have hwindow {s : State} (hs : CoreInv s) : WindowInv s.cfg s.slow.ring s.slow.idx s.slow.sum := by
    obtain ⟨_, _, hslow, _⟩ := (coreInv_iff s).1 hs
    exact hslow.window
  refine ⟨fun s hs => (hwindow hs).average_le, fun s hs => ⟨_, exec_acqUpdate s, ?_, ?_⟩⟩
  · exact windowByAge_filterWrite (hwindow hs) s.slow.meas
  · exact congrArg (average s.cfg) (filterWrite_sum_eq_windowByAge (hwindow hs) s.slow.meas)

end Sys2Proof.Proofs.MovingAverage

/-! SUPPORT. The statements of 42_fixed_point_scaler_and_limiter.md: the scaled and clamped sample (R141 to R144) and
the decimal digits (R146, R147). -/

namespace Sys2Proof.Proofs.Scaler

open Sys2Proof Sys2Proof.Machine

/-! ### The scaled sample -/

/-- Dividing by `n` after adding `n div 2` rounds to the nearest integer, an exact half upwards: twice the error
`m - n * q` lies between `-n` and `n`, and reaches only `-n`. -/
theorem div_add_half_nearest (m : Nat) {n : Nat} (hn : 0 < n) :
    2 * (n * ((m + n / 2) / n)) ≤ 2 * m + n ∧ 2 * m < 2 * (n * ((m + n / 2) / n)) + n := by
  have hdiv : n * ((m + n / 2) / n) + (m + n / 2) % n = m + n / 2 := Nat.div_add_mod _ n
  have hrem : (m + n / 2) % n < n := Nat.mod_lt _ hn
  omega

/-- Settles O23: `ROUND_HALF = FULL_SCALE div 2` is the half step that makes the floor division round to nearest. -/
theorem scaleRoundsHalfUp : Obligations.ScaleRoundsHalfUp := by
  intro c raw hfull hhalf
  have hscaled : 2 * scaleQuotient c raw * c.fullScale =
      2 * (c.fullScale * ((raw.toNat * c.refScale * 10 + c.fullScale / 2) / c.fullScale)) := by
    rw [scaleQuotient, hhalf]
    ring
  rw [hscaled]
  exact div_add_half_nearest _ hfull

theorem scaleClamp_eq (c : Config) (raw : RawSample) :
    scaleClamp c raw = min ((raw.toNat * c.refScale * 10 + c.roundHalf) / c.fullScale) 9999 := rfl

theorem scaleQuotient_mono (c : Config) {a b : RawSample} (h : a.toNat ≤ b.toNat) :
    scaleQuotient c a ≤ scaleQuotient c b := by
  unfold scaleQuotient
  gcongr

theorem scaleClamp_mono (c : Config) {a b : RawSample} (h : a.toNat ≤ b.toNat) : scaleClamp c a ≤ scaleClamp c b :=
  min_le_min_right measMax (scaleQuotient_mono c h)

/-- SCALE_CLAMP writes no register (R141): only the model's own field `fnOut` receives its result. -/
theorem exec_scaleClamp (raw : RawSample) (s : State) :
    exec (.scaleClamp raw) s = .next { s with fnOut := some (.value (scaleClamp s.cfg raw)) } := rfl

/-- Settles O22. -/
theorem scaleClampIsExactAndMonotone : Obligations.ScaleClampIsExactAndMonotone := by
  refine ⟨fun s raw => ?_, scaleClamp_le, fun c _ _ => scaleClamp_mono c⟩
  rw [exec_scaleClamp, scaleClamp_eq]

/-! ### The operation of SCALE -/

/-- Without reset each state of the sequencer has operations of its own, and SCALE has this one (30_encoding.md R74). -/
theorem slowOp_eq_acqScale_iff (s : State) :
    slowOp s = some .acqScale ↔ rstIn s = false ∧ s.slow.astate = .scale := by
  rw [slowOp_eq, Option.some.injEq]
  cases rstIn s with
  | true => simp
  | false =>
    cases s.slow.astate with
    | idle => cases go s <;> simp
    | wait => cases doneIn s <;> cases tmo s <;> simp
    | filter => cases seeding s <;> cases seedLast s <;> simp
    | start | scale | build | publish | reserved => simp

theorem exec_acqScale (s : State) :
    exec .acqScale s = .next { s with
      slow := { s.slow with meas := scaleClamp s.cfg s.slow.raw, astate := .filter } } := rfl

/-- Settles O14. -/
theorem acqScaleScalesAndClamps : Obligations.AcqScaleScalesAndClamps := by
  refine ⟨slowOp_eq_acqScale_iff, fun s => ?_⟩
  rw [exec_acqScale, scaleClamp_eq]

/-! ### The decimal digits -/

/-- The digits of index below `n`, weighted by their places, make up the remainder modulo `10 ^ n`: one digit more
refines the remainder by that digit. -/
theorem weighted_digits_sum (v n : Nat) :
    ((List.range n).map (fun i => v / 10 ^ i % 10 * 10 ^ i)).sum = v % 10 ^ n := by
  induction n with
  | zero => simp [Nat.mod_one]
  | succ n ih => rw [List.sum_range_succ, ih, Nat.mod_pow_succ, Nat.mul_comm]

theorem decSplit_getD (c : Config) (v : Nat) {i : Nat} (h : i < c.digits) :
    (decSplit c v).getD i 0 = v / 10 ^ i % 10 := by
  simp [decSplit, h]

/-- The `D` digits keep exactly what `10 ^ D` does not divide out. -/
theorem decSplit_weighted_sum (c : Config) (v : Nat) :
    ((List.range c.digits).map (fun i => (decSplit c v).getD i 0 * 10 ^ i)).sum = v % 10 ^ c.digits := by
  rw [← weighted_digits_sum]
  refine congrArg List.sum (List.map_congr_left fun i hi => ?_)
  rw [decSplit_getD c v (List.mem_range.1 hi)]

theorem decSplit_lossless {c : Config} {v : Nat} (h : v < 10 ^ c.digits) :
    ((List.range c.digits).map (fun i => (decSplit c v).getD i 0 * 10 ^ i)).sum = v :=
  (decSplit_weighted_sum c v).trans (Nat.mod_eq_of_lt h)

/-- Four digits are enough for every clamped value (R147). -/
theorem lt_ten_pow_of_le_measMax {n v : Nat} (hn : 4 ≤ n) (hv : v ≤ 9999) : v < 10 ^ n :=
  calc v < 10 ^ 4 := Nat.lt_succ_of_le hv
    _ ≤ 10 ^ n := Nat.pow_le_pow_right (by decide) hn

/-- DEC_SPLIT writes no register (R146): only the model's own field `fnOut` receives its result. -/
theorem exec_decSplit (v : Value) (s : State) :
    exec (.decSplit v) s = .next { s with fnOut := some (.digits (decSplit s.cfg v.toNat)) } := rfl

/-- Settles O24: the weighted digits sum to `v` modulo `10 ^ D`, and below `10 ^ D` that is `v`. -/
theorem decSplitGivesDecimalDigits : Obligations.DecSplitGivesDecimalDigits := by
  refine ⟨fun s v => ?_, fun c v => decSplit_lossless, fun c v hD hv => ?_⟩
  · rw [exec_decSplit, decSplit]
  · exact decSplit_lossless (lt_ten_pow_of_le_measMax hD hv)

end Sys2Proof.Proofs.Scaler

/-! SUPPORT. The statements of 43_refresh_scheduler.md: the operations of the fast path (R162 to R169), the digit lines
and the positions (R170 to R172), and how many ticks a phase and a scheduler cycle last (R161, R174). -/

namespace Sys2Proof.Proofs.Scheduler

open Sys2Proof Sys2Proof.Machine Sys2Proof.Proofs.Registers Sys2Proof.Proofs.Memory

/-! ### The operations -/

/-- The rows of the fast path's table (30_encoding.md R72) in its signals; the case split is the table's priority. -/
theorem fastOp_iff (s : State) :
    (fastOp s = some .schReset ↔ rstIn s = true) ∧
    (fastOp s = some .schWaitValid ↔ rstIn s = false ∧ s.slow.dispValid = false) ∧
    (fastOp s = some .schNoTick ↔ rstIn s = false ∧ s.slow.dispValid = true ∧ tickIn s = false) ∧
    (fastOp s = some .schDwell ↔
      rstIn s = false ∧ s.slow.dispValid = true ∧ tickIn s = true ∧ last s = false) ∧
    (fastOp s = some .schBlankToShow ↔
      rstIn s = false ∧ s.slow.dispValid = true ∧ tickIn s = true ∧ s.fast.phase = .blank ∧ last s = true) ∧
    (fastOp s = some .schShowToBlank ↔
      rstIn s = false ∧ s.slow.dispValid = true ∧ tickIn s = true ∧ s.fast.phase = .lit ∧ last s = true) := by
  rw [fastOp_eq]
  cases rstIn s with
  | true => simp
  | false =>
    cases s.slow.dispValid with
    | false => simp
    | true =>
      cases tickIn s with
      | false => simp
      | true =>
        cases last s with
        | false => simp
        | true => cases s.fast.phase <;> simp [phaseBit]

theorem phase_and_last_iff (s : State) (p : Phase) :
    s.fast.phase = p ∧ last s = true ↔ s.fast.phase = p ∧ s.fast.dwell + 1 = phaseTicks s.cfg p := by
  refine and_congr_right fun hp => ?_
  rw [last, decide_eq_true_iff, phaseLen_eq_phaseTicks, hp]

/-- In range (10_state.md R46), a tick that does not end the phase is one before its last. -/
theorem last_eq_false_iff {s : State} (h : s.fast.dwell < phaseLen s) :
    last s = false ↔ s.fast.dwell + 1 < phaseLen s := by
  rw [last, decide_eq_false_iff_not]
  omega

/-- CADENCE on `cyc` (R168). -/
theorem cycAfterShow_eq (s : State) :
    cycAfterShow s = if s.fast.pos = s.cfg.digits - 1 then
      (if s.fast.cyc = s.cfg.cadence - 1 then 0 else s.fast.cyc + 1) else s.fast.cyc := by
  simp [cycAfterShow, cycleEnds, cadenceEnds]

/-- CADENCE on the request (R169), where nothing clears it. -/
theorem pendNext_requestAfterShow (s : State) :
    pendNext s.acqPend (requestAfterShow s) false =
      (s.acqPend || decide (s.fast.pos = s.cfg.digits - 1 ∧ s.fast.cyc = s.cfg.cadence - 1)) := by
  simp [pendNext, requestAfterShow, cycleEnds, cadenceEnds, Bool.decide_and, Bool.or_comm]

theorem exec_schBlankToShow (s : State) :
    exec .schBlankToShow s = .next { s with
      fast := { s.fast with
        seg := bankAt s.slow s.slow.act s.fast.pos, digEn := onehot s.fast.pos, phase := .lit, dwell := 0 } } := rfl

theorem exec_schShowToBlank (s : State) :
    exec .schShowToBlank s = .next { s with
      fast := {
        digEn := 0, seg := 0, phase := .blank, dwell := 0
        pos := (s.fast.pos + 1) % s.cfg.digits
        cyc := cycAfterShow s }
      acqPend := pendNext s.acqPend (requestAfterShow s) false } := rfl

/-- Settles O1. -/
theorem schResetClearsFastPath : Obligations.SchResetClearsFastPath := by
  refine ⟨fun s => ?_, fun _ => rfl⟩
  obtain ⟨hreset, -⟩ := fastOp_iff s
  exact hreset

/-- Settles O2. -/
theorem schHoldsWithoutDisplayOrTick : Obligations.SchHoldsWithoutDisplayOrTick := by
  refine ⟨fun s => ?_, fun s => ?_, fun _ => rfl, fun _ => rfl⟩
  · obtain ⟨-, hwait, -⟩ := fastOp_iff s
    exact hwait
  · obtain ⟨-, -, hnoTick, -⟩ := fastOp_iff s
    exact hnoTick

/-- Settles O3: with `dwell` in range, not the last tick is a tick before the last. -/
theorem schDwellCountsTick : Obligations.SchDwellCountsTick := by
  refine ⟨fun s hs => ?_, fun _ => rfl⟩
  obtain ⟨-, -, -, hdwell, -⟩ := fastOp_iff s
  rw [hdwell, last_eq_false_iff hs.range.dwell_lt, phaseLen_eq]

/-- Settles O4. -/
theorem schBlankToShowDrivesDigit : Obligations.SchBlankToShowDrivesDigit := by
  refine ⟨fun s => ?_, fun s _ _ => ?_⟩
  · obtain ⟨-, -, -, -, hshow, -⟩ := fastOp_iff s
    rw [hshow, phase_and_last_iff]
    rfl
  · rw [exec_schBlankToShow, onehot_eq_ofNat]
    rfl

/-- Settles O5. -/
theorem schShowToBlankAdvancesAndCounts : Obligations.SchShowToBlankAdvancesAndCounts := by
  refine ⟨fun s => ?_, fun s => ?_⟩
  · obtain ⟨-, -, -, -, -, hblank⟩ := fastOp_iff s
    rw [hblank, phase_and_last_iff]
    rfl
  · rw [exec_schShowToBlank, cycAfterShow_eq, pendNext_requestAfterShow]

/-! ### The digit lines -/

theorem onehot_getLsbD {q p : Nat} (hp : p < 8) : (onehot q).getLsbD p = true ↔ q = p := by
  rw [onehot_eq_ofNat, BitVec.getLsbD_ofNat, decide_eq_true hp, Bool.true_and, Nat.testBit_two_pow, decide_eq_true_iff]

theorem digEn_getLsbD {c : Config} {f : FastRegs} (h : FastInv c f) {p : Nat} (hp : p < 8) :
    f.digEn.getLsbD p = true ↔ f.phase = .lit ∧ f.pos = p := by
  cases hphase : f.phase with
  | blank => simp [(h.blank_dark hphase).1]
  | lit => simp [h.lit_onehot hphase, onehot_getLsbD hp]

/-- Settles O46. -/
theorem atMostOneDigitLine : Obligations.AtMostOneDigitLine := by
  intro s hs
  obtain ⟨hc, hfast, -, -⟩ := (coreInv_iff s).1 hs
  exact ⟨hfast.popcount_le hc, fun _ => digEn_getLsbD hfast⟩

/-- Settles O47: only SCH_BLANK_TO_SHOW drives a new pattern, and in a Blank all is dark. -/
theorem noGhosting : Obligations.NoGhosting := by
  intro s t hs h
  obtain ⟨-, hfast, -, -⟩ := (coreInv_iff s).1 hs
  rw [step_fast h]
  rcases fastAfter_cases s with ⟨_, hreset⟩ | ⟨_, ⟨_, hhold⟩ | ⟨_, _, _, hdwell⟩ |
    ⟨_, _, _, hphase, hshow⟩ | ⟨_, _, _, _, hblank⟩⟩
  · rw [hreset]
    exact ⟨fun _ hlit => absurd rfl hlit, fun _ hlit => absurd rfl hlit⟩
  · rw [hhold]
    exact ⟨fun _ _ => ⟨rfl, rfl⟩, fun hne => absurd rfl hne⟩
  · rw [hdwell]
    exact ⟨fun _ _ => ⟨rfl, rfl⟩, fun hne => absurd rfl hne⟩
  · obtain ⟨hdig, hseg⟩ := hfast.blank_dark hphase
    rw [hshow]
    exact ⟨fun hlit => absurd hdig hlit, fun _ _ => ⟨hdig, hseg, rfl, rfl, rfl⟩⟩
  · rw [hblank]
    exact ⟨fun _ hlit => absurd rfl hlit, fun _ hlit => absurd rfl hlit⟩

/-- Settles O48: only SCH_SHOW_TO_BLANK changes the position. -/
theorem positionSequence : Obligations.PositionSequence := by
  intro s t h hr
  rw [step_fast h]
  rcases fastAfter_cases s with ⟨hrst, _⟩ | ⟨_, ⟨_, hhold⟩ | ⟨_, _, _, hdwell⟩ |
    ⟨_, _, _, hphase, hshow⟩ | ⟨_, _, _, hphase, hblank⟩⟩
  · exact absurd (hr.symm.trans hrst) Bool.false_ne_true
  · rw [hhold]
    exact ⟨fun _ => rfl, fun hlit hblank => absurd (hlit.symm.trans hblank) nofun, fun _ => rfl⟩
  · rw [hdwell]
    exact ⟨fun _ => rfl, fun hlit hblank => absurd (hlit.symm.trans hblank) nofun, fun _ => rfl⟩
  · rw [hshow]
    exact ⟨fun _ => rfl, fun _ => nofun, fun _ => rfl⟩
  · rw [hblank]
    exact ⟨nofun, fun _ _ => rfl, fun hdark => absurd (hphase.symm.trans hdark) nofun⟩

/-! ### One edge of the fast path while a digit is displayed -/

section Edge

variable {s : State}

theorem fastAfter_of_no_tick (hr : rstIn s = false) (ht : tickIn s = false) : fastAfter s = s.fast := by
  simp [fastAfter, hr, ht]

theorem fastAfter_of_dwell (hr : rstIn s = false) (hv : s.slow.dispValid = true) (ht : tickIn s = true)
    (hl : s.fast.dwell + 1 ≠ phaseLen s) : fastAfter s = { s.fast with dwell := s.fast.dwell + 1 } := by
  simp [fastAfter, hr, hv, ht, hl]

/-- The tick that ends a phase (R166, R167). -/
theorem fastAfter_of_last (hr : rstIn s = false) (hv : s.slow.dispValid = true) (ht : tickIn s = true)
    (hl : s.fast.dwell + 1 = phaseLen s) : (fastAfter s).phase ≠ s.fast.phase ∧ (fastAfter s).dwell = 0 := by
  cases hp : s.fast.phase <;> simp [fastAfter, hr, hv, ht, hl, hp]

end Edge

/-! ### Runs, by the ticks among their inputs -/

theorem tickCount_cons (v : InVec) (vs : List InVec) : tickCount (v :: vs) = (inTick v).toNat + tickCount vs := by
  cases hv : inTick v <;> simp [tickCount, hv, Nat.add_comm]

theorem tickCount_concat {us : List InVec} {v : InVec} (hv : inTick v = true) :
    tickCount (us ++ [v]) = tickCount us + 1 := by
  simp [tickCount, hv]

/-- While there is a display and no reset, an edge without a tick leaves the fast path as it is (R164). So a property
`P n` of its registers that each tick carries from `n` to `n + 1` holds after a run with `n` raised by its ticks. -/
theorem runEdges_counts_ticks {c : Config} (hc : c.Legal) {P : Nat → FastRegs → Prop}
    (htick : ∀ n u, u.cfg = c → u.slow.dispValid = true → rstIn u = false → tickIn u = true →
      P n u.fast → P (n + 1) (fastAfter u))
    (vs : List InVec) {rest : List InVec} {n : Nat} {s : State} (hcfg : s.cfg = c) (hv : s.slow.dispValid = true)
    (hstim : s.stim = vs ++ rest) (hrst : ∀ v ∈ vs, inRst v = false) (h : P n s.fast) :
    ∃ t, runEdges vs.length s = .next t ∧ P (n + tickCount vs) t.fast := by
  induction vs generalizing n s with
  | nil => exact ⟨s, rfl, h⟩
  | cons v vs ih =>
    obtain ⟨u, hu⟩ := step_completes (hcfg ▸ hc)
    obtain ⟨hcfg', hstim', -⟩ := step_frame hu
    have hin : sampledInput s = v := sampledInput_cons s v (vs ++ rest) hstim
    have hr : rstIn s = false := by rw [rstIn, hin]; exact hrst v List.mem_cons_self
    have ht : tickIn s = inTick v := by rw [tickIn, hin]
    have hv' : u.slow.dispValid = true := by rw [step_slow hu]; exact slowAfter_dispValid_of_valid hr hv
    have hP : P (n + (inTick v).toNat) u.fast := by
      rw [step_fast hu]
      cases hvt : inTick v with
      | false => rwa [fastAfter_of_no_tick hr (ht.trans hvt)]
      | true => exact htick n s hcfg hv hr (ht.trans hvt) h
    rw [List.length_cons, runEdges_succ _ hu, tickCount_cons, ← Nat.add_assoc]
    exact ih (hcfg'.trans hcfg) hv' (by rw [hstim', hstim]; rfl) (fun w hw => hrst w (List.mem_cons_of_mem v hw)) hP

/-! ### The length of a phase -/

/-- The fast path's registers `f` once `n` of the `len` ticks of a phase that held `f₀` are over: while ticks are left,
only `dwell` has changed; with the last one the phase is another. -/
structure PhaseProgress (f₀ : FastRegs) (len n : Nat) (f : FastRegs) : Prop where
  within : n < len → f = { f₀ with dwell := n }
  ended : n = len → f.phase ≠ f₀.phase ∧ f.dwell = 0

theorem PhaseProgress.tick {f₀ : FastRegs} {n : Nat} {u : State} (hv : u.slow.dispValid = true)
    (hr : rstIn u = false) (ht : tickIn u = true) (h : PhaseProgress f₀ (phaseTicks u.cfg f₀.phase) n u.fast) :
    PhaseProgress f₀ (phaseTicks u.cfg f₀.phase) (n + 1) (fastAfter u) := by
  have hlen (hn : n < phaseTicks u.cfg f₀.phase) : phaseLen u = phaseTicks u.cfg f₀.phase := by
    rw [phaseLen_eq_phaseTicks, h.within hn]
  refine ⟨fun hn => ?_, fun hn => ?_⟩
  · have hf := h.within (by omega)
    rw [fastAfter_of_dwell hr hv ht (by rw [hlen (by omega), hf]; exact hn.ne), hf]
  · have hf := h.within (by omega)
    have hend := fastAfter_of_last hr hv ht (by rw [hlen (by omega), hf]; exact hn)
    rwa [hf] at hend

theorem runEdges_phaseProgress {s : State} {vs rest : List InVec} (hc : s.cfg.Legal) (hv : s.slow.dispValid = true)
    (hstim : s.stim = vs ++ rest) (hrst : ∀ v ∈ vs, inRst v = false) (hlt : s.fast.dwell < phaseLen s) :
    ∃ t, runEdges vs.length s = .next t ∧
      PhaseProgress s.fast (phaseLen s) (s.fast.dwell + tickCount vs) t.fast := by
  rw [phaseLen_eq_phaseTicks] at hlt ⊢
  refine runEdges_counts_ticks hc (fun n u hcfg hvu hr ht h => ?_) vs rfl hv hstim hrst
    ⟨fun _ => rfl, fun heq => absurd heq hlt.ne⟩
  rw [← hcfg] at h ⊢
  exact h.tick hvu hr ht

/-- Settles O49. -/
theorem phaseLastsItsTicks : Obligations.PhaseLastsItsTicks := by
  intro s vs rest hc hv hstim hrst
  refine ⟨fun hlt => ?_, fun us v hvs hvt heq => ?_⟩
  · obtain ⟨t, ht, hprog⟩ := runEdges_phaseProgress hc hv hstim hrst (by omega)
    exact ⟨t, ht, hprog.within hlt⟩
  · have hcount : tickCount vs = tickCount us + 1 := by rw [hvs, tickCount_concat hvt]
    obtain ⟨t, ht, hprog⟩ := runEdges_phaseProgress hc hv hstim hrst (by omega)
    exact ⟨t, ht, hprog.ended heq⟩

/-! ### The length of a scheduler cycle

The registers `cyc`, `pos`, `phase` and `dwell` are the digits of one counter of ticks, which wraps after `K` cycles. -/

/-- The ticks of one digit: its Blank and its Show. -/
def digitTicks (c : Config) : Nat := c.onTicks + c.blankTicks

/-- The ticks of a scheduler cycle. -/
def cycleTicks (c : Config) : Nat := c.digits * digitTicks c

/-- The ticks of a digit that are over when a phase begins. -/
def phaseStart (c : Config) : Phase → Nat
  | .blank => 0
  | .lit => c.blankTicks

/-- The ticks of a scheduler cycle that are over. -/
def cyclePlace (c : Config) (f : FastRegs) : Nat := f.pos * digitTicks c + (phaseStart c f.phase + f.dwell)

/-- The ticks that are over since CADENCE last reached its period. -/
def cadencePlace (c : Config) (f : FastRegs) : Nat := f.cyc * cycleTicks c + cyclePlace c f

theorem phaseStart_add_phaseTicks_le (c : Config) (p : Phase) : phaseStart c p + phaseTicks c p ≤ digitTicks c := by
  cases p <;> simp [phaseStart, phaseTicks, digitTicks, Nat.add_comm]

theorem cyclePlace_lt {c : Config} {f : FastRegs} (h : FastInv c f) : cyclePlace c f < cycleTicks c := by
  have hphase := phaseStart_add_phaseTicks_le c f.phase
  have hdwell := h.dwell_lt
  rw [cyclePlace, cycleTicks, Nat.mul_comm f.pos]
  exact Nat.mul_add_lt_mul_of_lt_of_lt h.pos_lt (by omega)

theorem cadencePlace_lt {c : Config} {f : FastRegs} (h : FastInv c f) :
    cadencePlace c f < c.cadence * cycleTicks c := by
  rw [cadencePlace, Nat.mul_comm f.cyc]
  exact Nat.mul_add_lt_mul_of_lt_of_lt h.cyc_lt (cyclePlace_lt h)

/-- The tick that leaves a Show carries into `pos`; from the last position it carries on into `cyc` (R168). -/
theorem cadencePlace_showToBlank {s : State} (h : FastInv s.cfg s.fast) (hp : s.fast.phase = .lit)
    (hl : s.fast.dwell + 1 = s.cfg.onTicks) :
    cadencePlace s.cfg { s.fast with
        digEn := 0, seg := 0, phase := .blank, dwell := 0,
        pos := (s.fast.pos + 1) % s.cfg.digits, cyc := cycAfterShow s } ≡
      cadencePlace s.cfg s.fast + 1 [MOD s.cfg.cadence * cycleTicks s.cfg] := by
  have hpos := h.pos_lt
  have hcyc := h.cyc_lt
  have hplace : cadencePlace s.cfg s.fast + 1 =
      s.fast.cyc * cycleTicks s.cfg + (s.fast.pos + 1) * digitTicks s.cfg := by
    simp only [cadencePlace, cyclePlace, phaseStart, hp, digitTicks, Nat.succ_mul]
    omega
  rw [hplace, cycAfterShow_eq]
  by_cases hD : s.fast.pos = s.cfg.digits - 1
  · have hD' : s.fast.pos + 1 = s.cfg.digits := by omega
    have hcarry : s.fast.cyc * cycleTicks s.cfg + s.cfg.digits * digitTicks s.cfg =
        (s.fast.cyc + 1) * cycleTicks s.cfg := (Nat.succ_mul _ _).symm
    rw [if_pos hD, hD', hcarry, Nat.mod_self]
    by_cases hK : s.fast.cyc = s.cfg.cadence - 1
    · have hK' : s.fast.cyc + 1 = s.cfg.cadence := by omega
      rw [if_pos hK, hK']
      simp [cadencePlace, cyclePlace, phaseStart, Nat.ModEq]
    · rw [if_neg hK]
      simp [cadencePlace, cyclePlace, phaseStart, Nat.ModEq]
  · rw [if_neg hD, Nat.mod_eq_of_lt (by omega)]
    simp [cadencePlace, cyclePlace, phaseStart, Nat.ModEq]

/-- Every tick adds one to the counter. -/
theorem cadencePlace_tick {s : State} (h : FastInv s.cfg s.fast) (hv : s.slow.dispValid = true)
    (hr : rstIn s = false) (ht : tickIn s = true) :
    cadencePlace s.cfg (fastAfter s) ≡ cadencePlace s.cfg s.fast + 1 [MOD s.cfg.cadence * cycleTicks s.cfg] := by
  rcases fastAfter_cases s with ⟨hrst, _⟩ | ⟨_, ⟨hstill, _⟩ | ⟨_, _, _, hdwell⟩ |
    ⟨_, _, hlast, hphase, hshow⟩ | ⟨_, _, hlast, hphase, hblank⟩⟩
  · simp [hr] at hrst
  · simp [hv, ht] at hstill
  · rw [hdwell]
    exact Nat.ModEq.rfl
  · rw [hshow]
    have hlen : s.fast.dwell + 1 = s.cfg.blankTicks := by rw [hlast, phaseLen_eq_phaseTicks, hphase]; rfl
    refine congrArg (· % _) ?_
    simp only [cadencePlace, cyclePlace, phaseStart, hphase]
    omega
  · rw [hblank]
    exact cadencePlace_showToBlank h hphase (by rw [hlast, phaseLen_eq_phaseTicks, hphase]; rfl)

/-- The counter stands at `n`, modulo the period of CADENCE, and the registers are in range. -/
structure CounterAt (c : Config) (n : Nat) (f : FastRegs) : Prop where
  inv : FastInv c f
  place : cadencePlace c f ≡ n [MOD c.cadence * cycleTicks c]

theorem CounterAt.tick {s : State} {n : Nat} (hc : s.cfg.Legal) (h : CounterAt s.cfg n s.fast)
    (hv : s.slow.dispValid = true) (hr : rstIn s = false) (ht : tickIn s = true) :
    CounterAt s.cfg (n + 1) (fastAfter s) where
  inv := fastAfter_keeps hc h.inv
  place := (cadencePlace_tick h.inv hv hr ht).trans (h.place.add_right 1)

theorem runEdges_counterAt {s : State} {vs rest : List InVec} {n : Nat} (hc : s.cfg.Legal)
    (h : CounterAt s.cfg n s.fast) (hv : s.slow.dispValid = true) (hstim : s.stim = vs ++ rest)
    (hrst : ∀ v ∈ vs, inRst v = false) :
    ∃ t, runEdges vs.length s = .next t ∧ CounterAt s.cfg (n + tickCount vs) t.fast := by
  refine runEdges_counts_ticks hc (fun m u hcfg hvu hr ht hu => ?_) vs rfl hv hstim hrst h
  rw [← hcfg] at hc hu ⊢
  exact hu.tick hc hvu hr ht

/-- The fast path at the entry of Blank(0). -/
def cycleStart (cyc : Nat) : FastRegs := { FastRegs.reset with cyc := cyc }

theorem cadencePlace_cycleStart (c : Config) (k : Nat) : cadencePlace c (cycleStart k) = k * cycleTicks c := by
  simp [cadencePlace, cyclePlace, cycleStart, phaseStart]

/-- In a Blank the lines are dark (10_state.md R47), so phase, `pos` and `dwell` tell the entry of Blank(0). -/
theorem eq_cycleStart {c : Config} {f : FastRegs} (h : FastInv c f) (hphase : f.phase = .blank) (hpos : f.pos = 0)
    (hdwell : f.dwell = 0) : f = cycleStart f.cyc := by
  obtain ⟨hdig, hseg⟩ := h.blank_dark hphase
  rw [FastRegs.mk.injEq]
  exact ⟨hphase, hpos, hdwell, rfl, hdig, hseg⟩

/-- A cycle with no tick over has all its digits at 0. -/
theorem eq_cycleStart_of_cyclePlace {c : Config} {f : FastRegs} (hc : c.Legal) (h : FastInv c f)
    (hplace : cyclePlace c f = 0) : f = cycleStart f.cyc := by
  obtain ⟨_, _, _, _, hBlank, _⟩ := legal_ranges hc
  have hdigit : digitTicks c ≠ 0 := by rw [digitTicks]; omega
  rw [cyclePlace, Nat.add_eq_zero_iff, Nat.mul_eq_zero, Nat.add_eq_zero_iff] at hplace
  obtain ⟨hpos, hstart, hdwell⟩ := hplace
  refine eq_cycleStart h ?_ (hpos.resolve_right hdigit) hdwell
  cases hp : f.phase with
  | blank => rfl
  | lit =>
    rw [hp, phaseStart] at hstart
    omega

/-- The counter at a whole number of cycles, read back into the registers: `cyc` is its quotient by the ticks of a cycle,
and the remainder is 0. -/
theorem CounterAt.eq_cycleStart {c : Config} {f : FastRegs} {k : Nat} (hc : c.Legal)
    (h : CounterAt c (k * cycleTicks c) f) : f = cycleStart (k % c.cadence) := by
  have hlt := cyclePlace_lt h.inv
  have hplace : f.cyc * cycleTicks c + cyclePlace c f = k % c.cadence * cycleTicks c :=
    calc cadencePlace c f
      _ = cadencePlace c f % (c.cadence * cycleTicks c) := (Nat.mod_eq_of_lt (cadencePlace_lt h.inv)).symm
      _ = k * cycleTicks c % (c.cadence * cycleTicks c) := h.place
      _ = k % c.cadence * cycleTicks c := Nat.mul_mod_mul_right _ _ _
  have hzero : cyclePlace c f = 0 := by
    have hmod := congrArg (· % cycleTicks c) hplace
    simpa [Nat.mul_add_mod', Nat.mod_eq_of_lt hlt] using hmod
  rw [hzero, Nat.add_zero] at hplace
  rw [← Nat.eq_of_mul_eq_mul_right (Nat.zero_lt_of_lt hlt) hplace]
  exact eq_cycleStart_of_cyclePlace hc h.inv hzero

/-- Settles O50: `D * (ON_TICKS + BLANK_TICKS)` ticks raise the counter by one whole cycle. -/
theorem schedulerCycleLength : Obligations.SchedulerCycleLength := by
  intro s us rest v hs hv hstim husrst hvrst hvt hphase hpos hdwell hticks
  obtain ⟨hc, hfast, -, -⟩ := (coreInv_iff s).1 hs
  have hrst : ∀ w ∈ us ++ [v], inRst w = false := by
    simpa [or_imp, forall_and] using And.intro husrst hvrst
  have hcount : tickCount (us ++ [v]) = cycleTicks s.cfg := (tickCount_concat hvt).trans hticks
  have hstart : cadencePlace s.cfg s.fast = s.fast.cyc * cycleTicks s.cfg := by
    rw [eq_cycleStart hfast hphase hpos hdwell]
    exact cadencePlace_cycleStart s.cfg s.fast.cyc
  obtain ⟨t, ht, hend⟩ := runEdges_counterAt hc ⟨hfast, .rfl⟩ hv (by simpa using hstim) hrst
  rw [List.length_append] at ht
  rw [hcount, hstart, ← Nat.succ_mul] at hend
  exact ⟨t, ht, hend.eq_cycleStart hc⟩

end Sys2Proof.Proofs.Scheduler

/-! SUPPORT. The statements of 44_acquisition_and_digit_buffer.md: the operations of the sequencer (R202 to R209, R218,
R219), the digit patterns (R216, R217), the displayed bank (R220, R222), the request bit (R221), what is seen of the
converter (R210), and runs of the sequencer (R200, R206, R208, R211, R212). -/

namespace Sys2Proof.Proofs.Acquisition

open Sys2Proof Sys2Proof.Machine

/-! ### The operation selected in each state of the sequencer -/

/-- What the slow path performs in state `x` of the sequencer, without reset (30_encoding.md R74). -/
def opIn (s : State) : AState → Instr
  | .idle => if go s then .acqLaunch else .acqIdle
  | .start => .acqStart
  | .wait => if doneIn s then .acqCapture else if tmo s then .acqTimeout else .acqPoll
  | .scale => .acqScale
  | .filter => if !seeding s then .acqUpdate else if seedLast s then .acqSeedLast else .acqSeed
  | .build => .acqBuild
  | .publish => .acqPublish
  | .reserved => .acqReservedState

theorem slowOp_eq_opIn (s : State) :
    slowOp s = some (if rstIn s then .acqReset else opIn s s.slow.astate) := by
  rw [slowOp_eq]
  cases s.slow.astate <;> rfl

/-- The one state of the sequencer in which an operation is performed: an operation of no such state is ACQ_RESET or not
the slow path's. -/
def stateOf : Instr → Option AState
  | .acqIdle | .acqLaunch => some .idle
  | .acqStart => some .start
  | .acqPoll | .acqCapture | .acqTimeout => some .wait
  | .acqScale => some .scale
  | .acqSeed | .acqSeedLast | .acqUpdate => some .filter
  | .acqBuild => some .build
  | .acqPublish => some .publish
  | .acqReservedState => some .reserved
  | _ => none

theorem stateOf_opIn (s : State) (x : AState) : stateOf (opIn s x) = some x := by
  cases x with
  | idle => rw [opIn]; split_ifs <;> rfl
  | wait => rw [opIn]; split_ifs <;> rfl
  | filter => rw [opIn]; split_ifs <;> rfl
  | start | scale | build | publish | reserved => rfl

/-- Selection of an operation, in two parts: its state, and the signals that choose among the operations of that state. -/
theorem slowOp_eq_some_iff {s : State} {a : Instr} {x : AState} (hx : stateOf a = some x) :
    slowOp s = some a ↔ rstIn s = false ∧ s.slow.astate = x ∧ opIn s x = a := by
  rw [slowOp_eq_opIn, Option.some.injEq]
  cases rstIn s with
  | true =>
    have hne : Instr.acqReset ≠ a := by rintro rfl; cases hx
    simpa using hne
  | false =>
    constructor
    · rintro rfl
      have hxs : s.slow.astate = x := Option.some.inj ((stateOf_opIn s s.slow.astate).symm.trans hx)
      exact ⟨rfl, hxs, by rw [← hxs]; rfl⟩
    · rintro ⟨-, rfl, rfl⟩
      rfl

/-- A state with one operation selects it without reset. -/
theorem slowOp_eq_some_iff_of_only {s : State} {a : Instr} {x : AState} (hx : stateOf a = some x)
    (honly : opIn s x = a) : slowOp s = some a ↔ rstIn s = false ∧ s.slow.astate = x := by
  rw [slowOp_eq_some_iff hx]
  simp [honly]

theorem slowOp_eq_acqReset_iff (s : State) : slowOp s = some .acqReset ↔ rstIn s = true := by
  rw [slowOp_eq_opIn, Option.some.injEq]
  cases rstIn s with
  | true => simp
  | false =>
    have hne : opIn s s.slow.astate ≠ .acqReset := fun h => by
      have hx := stateOf_opIn s s.slow.astate
      rw [h] at hx
      cases hx
    simpa using hne

theorem go_eq_true_iff (s : State) : go s = true ↔ s.slow.seedCnt < s.cfg.window ∨ s.acqPend = true := by
  simp [go, seeding]

theorem tmo_eq_true_iff (s : State) :
    tmo s = true ↔ 0 < s.cfg.adcTimeout ∧ s.slow.wcnt = s.cfg.adcTimeout - 1 := decide_eq_true_iff

theorem opIn_idle_eq_acqLaunch_iff (s : State) :
    opIn s .idle = .acqLaunch ↔ s.slow.seedCnt < s.cfg.window ∨ s.acqPend = true := by
  rw [← go_eq_true_iff, opIn]
  cases go s <;> simp

theorem opIn_idle_eq_acqIdle_iff (s : State) :
    opIn s .idle = .acqIdle ↔ ¬ s.slow.seedCnt < s.cfg.window ∧ s.acqPend = false := by
  rw [← Bool.not_eq_true s.acqPend, ← not_or, ← go_eq_true_iff, opIn]
  cases go s <;> simp

theorem opIn_wait_eq_acqCapture_iff (s : State) : opIn s .wait = .acqCapture ↔ doneIn s = true := by
  rw [opIn]
  cases doneIn s <;> cases tmo s <;> simp

theorem opIn_wait_eq_acqTimeout_iff (s : State) :
    opIn s .wait = .acqTimeout ↔
      doneIn s = false ∧ 0 < s.cfg.adcTimeout ∧ s.slow.wcnt = s.cfg.adcTimeout - 1 := by
  rw [← tmo_eq_true_iff, opIn]
  cases doneIn s <;> cases tmo s <;> simp

theorem opIn_wait_eq_acqPoll_iff (s : State) :
    opIn s .wait = .acqPoll ↔
      doneIn s = false ∧ ¬ (0 < s.cfg.adcTimeout ∧ s.slow.wcnt = s.cfg.adcTimeout - 1) := by
  rw [← tmo_eq_true_iff, opIn]
  cases doneIn s <;> cases tmo s <;> simp

/-! ### What each operation does -/

theorem exec_acqReset (s : State) :
    exec .acqReset s = .next { s with slow := SlowRegs.reset s.cfg, acqPend := false } := rfl

theorem exec_acqIdle (s : State) : exec .acqIdle s = .next s := rfl

theorem exec_acqLaunch (s : State) :
    exec .acqLaunch s = .next { s with slow := { s.slow with astate := .start }, acqPend := false } := by
  rw [← pendNext_clear s.acqPend]
  rfl

theorem exec_acqStart (s : State) :
    exec .acqStart s = .next { s with slow := { s.slow with wcnt := 0, astate := .wait } } := rfl

theorem exec_acqPoll (s : State) :
    exec .acqPoll s = .next { s with
      slow := { s.slow with wcnt := if 0 < s.cfg.adcTimeout then s.slow.wcnt + 1 else s.slow.wcnt } } := rfl

theorem exec_acqCapture (s : State) :
    exec .acqCapture s = .next { s with
      slow := { s.slow with raw := dataIn s, acqFault := false, astate := .scale } } := rfl

theorem exec_acqTimeout (s : State) :
    exec .acqTimeout s = .next { s with slow := { s.slow with acqFault := true, wcnt := 0, astate := .idle } } := rfl

theorem exec_acqReservedState (s : State) :
    exec .acqReservedState s = .next { s with slow := { s.slow with astate := .idle } } := rfl

theorem exec_acqBuild (s : State) :
    exec .acqBuild s = .next { s with
      slow := { bankWrite s.slow (!s.slow.act) (digitPatterns s.cfg (average s.cfg s.slow.sum)) with
        astate := .publish } } := rfl

theorem exec_acqPublish (s : State) :
    exec .acqPublish s = .next { s with
      slow := { s.slow with
        act := !s.slow.act, dispValid := true, pubVal := average s.cfg s.slow.sum, astate := .idle } } := rfl

/-- DIGIT_PATTERNS writes no register (R216): only the model's own field `fnOut` receives its result. -/
theorem exec_digitPatterns (v : Value) (s : State) :
    exec (.digitPatterns v) s = .next { s with fnOut := some (.patterns (digitPatterns s.cfg v.toNat)) } := rfl

theorem inData_eq_ofNat (v : InVec) : inData v = BitVec.ofNat 10 (v.toNat % 2 ^ 10) := by
  refine BitVec.eq_of_toNat_eq ?_
  simp [inData]

/-- A bank write as one update of the registers. -/
theorem bankWrite_eq (r : SlowRegs) (b : Bool) (ps : List SegByte) :
    bankWrite r b ps = { r with bank0 := if b then r.bank0 else ps, bank1 := if b then ps else r.bank1 } := by
  cases b <;> rfl

/-! ### The obligations of the single operations -/

/-- Settles O6. -/
theorem acqResetClearsSlowPath : Obligations.AcqResetClearsSlowPath :=
  ⟨slowOp_eq_acqReset_iff, exec_acqReset⟩

/-- Settles O7. -/
theorem acqIdleHolds : Obligations.AcqIdleHolds := by
  refine ⟨fun s => ?_, exec_acqIdle⟩
  rw [slowOp_eq_some_iff rfl, opIn_idle_eq_acqIdle_iff]

/-- Settles O8. -/
theorem acqLaunchConsumesRequest : Obligations.AcqLaunchConsumesRequest := by
  refine ⟨fun s => ?_, exec_acqLaunch⟩
  rw [slowOp_eq_some_iff rfl, opIn_idle_eq_acqLaunch_iff]

/-- Settles O9. -/
theorem acqStartRequestsConversion : Obligations.AcqStartRequestsConversion :=
  ⟨fun _ => slowOp_eq_some_iff_of_only rfl rfl, fun _ ha => ⟨decide_eq_true ha, rfl⟩, exec_acqStart⟩

/-- Settles O10. -/
theorem acqPollCountsOnlyWithTimeout : Obligations.AcqPollCountsOnlyWithTimeout := by
  refine ⟨fun s => ?_, fun s hT => ?_, fun s hT => ?_⟩
  · rw [slowOp_eq_some_iff rfl, opIn_wait_eq_acqPoll_iff]
  · rw [exec_acqPoll, if_pos hT]
  · rw [exec_acqPoll, if_neg (by omega)]

/-- Settles O11. -/
theorem acqCaptureTakesAnyResult : Obligations.AcqCaptureTakesAnyResult := by
  refine ⟨fun s => ?_, fun s => ?_⟩
  · rw [slowOp_eq_some_iff rfl, opIn_wait_eq_acqCapture_iff]
  · rw [exec_acqCapture, dataIn, inData_eq_ofNat]

/-- Settles O12. -/
theorem acqTimeoutReportsFault : Obligations.AcqTimeoutReportsFault := by
  refine ⟨fun s => ?_, exec_acqTimeout⟩
  rw [slowOp_eq_some_iff rfl, opIn_wait_eq_acqTimeout_iff]

/-- Settles O13. -/
theorem acqReservedStateReturnsToIdle : Obligations.AcqReservedStateReturnsToIdle :=
  ⟨fun _ => slowOp_eq_some_iff_of_only rfl rfl, exec_acqReservedState⟩

/-- Settles O18: the shadow bank is the one that `act` does not select. -/
theorem acqBuildWritesShadowBank : Obligations.AcqBuildWritesShadowBank := by
  refine ⟨fun _ => slowOp_eq_some_iff_of_only rfl rfl, fun s hact => ?_, fun s hact => ?_⟩
  · rw [exec_acqBuild, hact, bankWrite_eq]
    rfl
  · rw [exec_acqBuild, hact, bankWrite_eq]
    rfl

/-- Settles O19. -/
theorem acqPublishFlipsBank : Obligations.AcqPublishFlipsBank :=
  ⟨fun _ => slowOp_eq_some_iff_of_only rfl rfl, exec_acqPublish⟩

/-! ### The digit patterns -/

theorem digitPatterns_getD (c : Config) (v : Nat) {i : Nat} (hi : i < c.digits) :
    (digitPatterns c v).getD i 0 = digitPattern c (decSplit c v) i := by
  simp [digitPatterns, hi]

/-- A digit above `keep` lies above both the most significant non-zero digit and the decimal point (R216). -/
theorem keepDigit_lt_iff (c : Config) (ds : List Nat) (i : Nat) :
    keepDigit c ds < i ↔ msd ds < i ∧ ∀ p, c.dpPos = some p → p < i := by
  unfold keepDigit
  cases c.dpPos <;> simp

theorem msd_decSplit_lt_iff (c : Config) (v i : Nat) :
    msd (decSplit c v) < i ↔ 0 < i ∧ ∀ j, i ≤ j → j < c.digits → v / 10 ^ j % 10 = 0 := by
  have hdigit (j : Nat) : (decSplit c v).getD j 0 = 0 ↔ (j < c.digits → v / 10 ^ j % 10 = 0) := by
    by_cases hj : j < c.digits
    · rw [Scaler.decSplit_getD c v hj]
      simp [hj]
    · simp [hj, decSplit_length]
  simp only [lt_msd_iff, hdigit]

/-- The condition under which leading-zero blanking darkens digit `i` (R216, R217). -/
theorem blanked_iff (c : Config) (v i : Nat) :
    (c.blankLz = true ∧ keepDigit c (decSplit c v) < i) ↔
      c.blankLz = true ∧ 0 < i ∧ (∀ j, i ≤ j → j < c.digits → v / 10 ^ j % 10 = 0) ∧
        ∀ p, c.dpPos = some p → p < i := by
  rw [keepDigit_lt_iff, msd_decSplit_lt_iff, and_assoc]

/-- A decimal digit fits the operand field of SEG_ENCODE, so the encoder looks up that very digit. -/
theorem segEncode_ofNat (c : Config) {d : Nat} (hd : d < 10) (dp : Bool) :
    segEncode c (BitVec.ofNat 4 d) dp = (c.segTable.getD d 0).setWidth 8 ||| (if dp then 0x80 else 0x00) := by
  have hindex : (BitVec.ofNat 4 d).toNat % 10 = d := by
    rw [BitVec.toNat_ofNat]
    omega
  rw [segEncode, segTableAt, hindex]
  cases dp <;> rfl

theorem digitPattern_of_not_blanked {c : Config} {v i : Nat} (hi : i < c.digits)
    (h : ¬ (c.blankLz = true ∧ keepDigit c (decSplit c v) < i)) :
    digitPattern c (decSplit c v) i =
      (c.segTable.getD (v / 10 ^ i % 10) 0).setWidth 8 ||| (if c.dpPos = some i then 0x80 else 0x00) := by
  rw [digitPattern, if_neg h, Scaler.decSplit_getD c v hi, segEncode_ofNat c (Nat.mod_lt _ (by decide))]
  simp only [decide_eq_true_eq]

/-- Settles O25. -/
theorem digitPatternsBlankLeadingZeros : Obligations.DigitPatternsBlankLeadingZeros := by
  refine ⟨fun s v => exec_digitPatterns v s, digitPatterns_length, fun c v i hi => ?_⟩
  rw [digitPatterns_getD c v hi, ← blanked_iff]
  exact ⟨fun h => if_pos h, digitPattern_of_not_blanked hi⟩

/-! ### The displayed bank -/

/-- The registers of the DigitBuffer and of the published value are the same in both. -/
structure SameDisplay (r r' : SlowRegs) : Prop where
  bank0_eq : r'.bank0 = r.bank0
  bank1_eq : r'.bank1 = r.bank1
  act_eq : r'.act = r.act
  dispValid_eq : r'.dispValid = r.dispValid
  pubVal_eq : r'.pubVal = r.pubVal

theorem SameDisplay.bankOf_eq {r r' : SlowRegs} (h : SameDisplay r r') (b : Bool) : bankOf r' b = bankOf r b := by
  rw [bankOf, bankOf, h.bank0_eq, h.bank1_eq]

theorem slowAfter_keeps_display {s : State} (hr : rstIn s = false) (hb : s.slow.astate ≠ .build)
    (hp : s.slow.astate ≠ .publish) : (slowAfter s).astate ≠ .publish ∧ SameDisplay s.slow (slowAfter s) := by
  obtain ⟨_, hcase⟩ := (slowAfter_cases s).resolve_left (by simp [hr])
  simp only [hb, hp, false_and, false_or] at hcase
  rcases hcase with ⟨ha, _, h⟩ | ⟨ha, _, h⟩ | ⟨ha, h⟩ | ⟨ha, _, h⟩ | ⟨ha, _, _, h⟩ | ⟨ha, _, _, h⟩ | ⟨ha, h⟩ |
    ⟨ha, _, h⟩ | ⟨ha, _, h⟩ | ⟨ha, _, h⟩ | ⟨ha, h⟩
  all_goals
    rw [h]
    exact ⟨by simp [ha], rfl, rfl, rfl, rfl, rfl⟩

/-- What an edge can do to the DigitBuffer: only reset, BUILD and PUBLISH touch it, and only BUILD is followed by
PUBLISH. -/
theorem slowAfter_display_cases (s : State) :
    (rstIn s = true ∧ slowAfter s = SlowRegs.reset s.cfg) ∨ (rstIn s = false ∧
      ((s.slow.astate = .build ∧
          slowAfter s = { bankWrite s.slow (!s.slow.act) (digitPatterns s.cfg (average s.cfg s.slow.sum)) with
            astate := .publish }) ∨
        (s.slow.astate = .publish ∧
          slowAfter s = { s.slow with
            act := !s.slow.act, dispValid := true, pubVal := average s.cfg s.slow.sum, astate := .idle }) ∨
        (s.slow.astate ≠ .publish ∧ (slowAfter s).astate ≠ .publish ∧ SameDisplay s.slow (slowAfter s)))) := by
  cases hr : rstIn s with
  | true => exact .inl ⟨rfl, slowAfter_rst hr⟩
  | false =>
    refine .inr ⟨rfl, ?_⟩
    by_cases hb : s.slow.astate = .build
    · exact .inl ⟨hb, slowAfter_build hr hb⟩
    by_cases hp : s.slow.astate = .publish
    · exact .inr (.inl ⟨hp, slowAfter_publish hr hp⟩)
    · exact .inr (.inr ⟨hp, slowAfter_keeps_display hr hb hp⟩)

/-- Settles O43: BUILD writes the shadow bank from the sum that PUBLISH, at the next edge, still finds, and PUBLISH makes
that bank and its average the displayed ones together. -/
theorem everyStepKeepsDisplay : Obligations.EveryStepKeepsDisplay := by
  intro s t hs h
  obtain ⟨hcfg, -⟩ := step_frame h
  have ht := step_slow h
  rcases slowAfter_display_cases s with ⟨_, hreset⟩ | ⟨_, ⟨_, hbuild⟩ | ⟨ha, hpublish⟩ | ⟨_, hnot, hsame⟩⟩
  · rw [hreset] at ht
    exact ⟨by simp [ht], by simp [ht]⟩
  · rw [hbuild] at ht
    refine ⟨fun hv => ?shown, fun _ => ?built⟩
    case shown =>
      have hold : s.slow.dispValid = true := by simpa [ht] using hv
      have hother : bankOf t.slow t.slow.act = bankOf s.slow s.slow.act := by
        rw [ht]
        exact (bankOf_bankWrite _ _ _ _).trans (by simp)
      rw [hother, hs.shown hold, hcfg, ht]
      simp
    case built =>
      rw [ht, hcfg]
      exact (bankOf_bankWrite _ _ _ _).trans (by simp)
  · rw [hpublish] at ht
    refine ⟨fun _ => ?_, by simp [ht]⟩
    rw [ht, hcfg]
    exact hs.built ha
  · rw [← ht] at hnot hsame
    refine ⟨fun hv => ?_, fun hp => absurd hp hnot⟩
    rw [hsame.bankOf_eq, hsame.act_eq, hsame.pubVal_eq, hcfg]
    exact hs.shown (hsame.dispValid_eq ▸ hv)

/-- Settles O51. -/
theorem displayedBankChangesOnlyByPublish : Obligations.DisplayedBankChangesOnlyByPublish := by
  intro s t h hr
  rw [step_slow h]
  rcases slowAfter_display_cases s with ⟨hrst, _⟩ | ⟨_, ⟨ha, hbuild⟩ | ⟨ha, hpublish⟩ | ⟨ha, _, hsame⟩⟩
  · exact absurd (hr.symm.trans hrst) Bool.false_ne_true
  · rw [hbuild]
    exact ⟨fun _ => (bankOf_bankWrite _ _ _ _).trans (by simp), fun hp => absurd (ha.symm.trans hp) nofun⟩
  · rw [hpublish]
    exact ⟨fun hp => absurd ha hp, fun _ => ⟨rfl, rfl, rfl, rfl⟩⟩
  · exact ⟨fun _ => by rw [hsame.bankOf_eq, hsame.act_eq], fun hp => absurd hp ha⟩

/-! ### The request bit -/

/-- Settles O36. -/
theorem requestBitCombinesSetAndClear : Obligations.RequestBitCombinesSetAndClear := by
  intro s t h
  simp only [step_pend h, Bool.and_eq_true, Bool.or_eq_true, Bool.not_eq_true', decide_eq_true_eq]

/-! ### What is seen of the converter -/

/-- `slowAfter` reads the converter's answer in WAIT alone, and its data only when the answer is there (R210). -/
theorem slowAfter_congr_of_converter_unseen {s₁ s₂ : State} (hcfg : s₁.cfg = s₂.cfg) (hslow : s₁.slow = s₂.slow)
    (hpend : s₁.acqPend = s₂.acqPend) (hrst : rstIn s₁ = rstIn s₂)
    (hunseen : s₁.slow.astate ≠ .wait ∨ (doneIn s₁ = false ∧ doneIn s₂ = false)) :
    slowAfter s₁ = slowAfter s₂ := by
  unfold slowAfter
  rw [hcfg, hslow, hpend, hrst]
  rw [hslow] at hunseen
  cases ha : s₂.slow.astate with
  | wait =>
    obtain ⟨hdone₁, hdone₂⟩ := hunseen.resolve_left (not_not.2 ha)
    rw [hdone₁, hdone₂]
    rfl
  | idle | start | scale | filter | build | publish | reserved => rfl

/-- Settles O55. -/
theorem converterLookedAtOnlyInWait : Obligations.ConverterLookedAtOnlyInWait := by
  intro s₁ s₂ t₁ t₂ hcfg hfast hslow hpend hrst htick hunseen h₁ h₂
  refine ⟨?fast, ?slow, ?pend⟩
  case fast =>
    rw [step_fast h₁, step_fast h₂]
    exact Memory.fastAfter_congr hcfg hfast (by rw [hslow]) (by rw [hslow, hfast]) hrst htick
  case slow =>
    rw [step_slow h₁, step_slow h₂]
    exact slowAfter_congr_of_converter_unseen hcfg hslow hpend hrst hunseen
  case pend => rw [step_pend h₁, step_pend h₂, hcfg, hfast, hslow, hpend, hrst, htick]

/-! ### Runs of the sequencer, edge by edge -/

/-- `n` edges of a legal core from `s` complete, leave the inputs `vs` to come, and end with the slow path's
registers `r`. -/
def RunsTo (s : State) (n : Nat) (vs : List InVec) (r : SlowRegs) : Prop :=
  s.cfg.Legal ∧ ∃ t, runEdges n s = .next t ∧ t.cfg = s.cfg ∧ t.stim = vs ∧ t.slow = r

section Edges

variable {s : State} {n : Nat} {v : InVec} {vs : List InVec} {r r' : SlowRegs}

theorem RunsTo.start (hc : s.cfg.Legal) : RunsTo s 0 s.stim s.slow := ⟨hc, s, rfl, rfl, rfl, rfl⟩

theorem RunsTo.exists_slow (h : RunsTo s n vs r) : ∃ t, runEdges n s = .next t ∧ t.slow = r := by
  obtain ⟨-, t, ht, -, -, hslow⟩ := h
  exact ⟨t, ht, hslow⟩

/-- One edge more, whatever the fast path and the request bit are by then. -/
theorem RunsTo.edge (h : RunsTo s n (v :: vs) r)
    (hedge : ∀ t, t.cfg = s.cfg → t.slow = r → sampledInput t = v → slowAfter t = r') :
    RunsTo s (n + 1) vs r' := by
  obtain ⟨hc, t, ht, hcfg, hstim, hslow⟩ := h
  obtain ⟨u, hu⟩ := step_completes (hcfg ▸ hc)
  obtain ⟨hcfg', hstim', -⟩ := step_frame hu
  refine ⟨hc, u, ?_, hcfg'.trans hcfg, by rw [hstim', hstim]; rfl, ?_⟩
  · rw [runEdges_add n 1 s t ht, runEdges_one, hu]
  · rw [step_slow hu]
    exact hedge t hcfg hslow (sampledInput_cons t v vs hstim)

theorem RunsTo.acqStart (h : RunsTo s n (v :: vs) r) (hr : inRst v = false) (ha : r.astate = .start) :
    RunsTo s (n + 1) vs { r with wcnt := 0, astate := .wait } :=
  h.edge fun t _ hslow hin => by
    subst hslow hin
    exact slowAfter_start hr ha

theorem RunsTo.acqCapture (h : RunsTo s n (v :: vs) r) (hr : inRst v = false) (ha : r.astate = .wait)
    (hd : inDone v = true) : RunsTo s (n + 1) vs { r with raw := inData v, acqFault := false, astate := .scale } :=
  h.edge fun t _ hslow hin => by
    subst hslow hin
    exact slowAfter_capture hr ha hd

theorem RunsTo.acqTimeout (h : RunsTo s n (v :: vs) r) (hr : inRst v = false) (ha : r.astate = .wait)
    (hd : inDone v = false) (hT : 0 < s.cfg.adcTimeout ∧ r.wcnt = s.cfg.adcTimeout - 1) :
    RunsTo s (n + 1) vs { r with acqFault := true, wcnt := 0, astate := .idle } :=
  h.edge fun t hcfg hslow hin => by
    subst hslow hin
    exact slowAfter_timeout hr ha hd (hcfg ▸ hT)

theorem RunsTo.acqScale (h : RunsTo s n (v :: vs) r) (hr : inRst v = false) (ha : r.astate = .scale) :
    RunsTo s (n + 1) vs { r with meas := scaleClamp s.cfg r.raw, astate := .filter } :=
  h.edge fun t hcfg hslow hin => by
    subst hslow hin
    rw [← hcfg]
    exact slowAfter_scale hr ha

theorem RunsTo.acqUpdate (h : RunsTo s n (v :: vs) r) (hr : inRst v = false) (ha : r.astate = .filter)
    (hfull : r.seedCnt = s.cfg.window) :
    RunsTo s (n + 1) vs { filterWrite s.cfg r r.meas with astate := .build } :=
  h.edge fun t hcfg hslow hin => by
    subst hslow hin
    rw [← hcfg] at hfull ⊢
    exact slowAfter_update hr ha hfull.not_lt

theorem RunsTo.acqBuild (h : RunsTo s n (v :: vs) r) (hr : inRst v = false) (ha : r.astate = .build) :
    RunsTo s (n + 1) vs
      { bankWrite r (!r.act) (digitPatterns s.cfg (average s.cfg r.sum)) with astate := .publish } :=
  h.edge fun t hcfg hslow hin => by
    subst hslow hin
    rw [← hcfg]
    exact slowAfter_build hr ha

theorem RunsTo.acqPublish (h : RunsTo s n (v :: vs) r) (hr : inRst v = false) (ha : r.astate = .publish) :
    RunsTo s (n + 1) vs
      { r with act := !r.act, dispValid := true, pubVal := average s.cfg r.sum, astate := .idle } :=
  h.edge fun t hcfg hslow hin => by
    subst hslow hin
    rw [← hcfg]
    exact slowAfter_publish hr ha

end Edges

/-! ### Waiting for the converter -/

/-- The slow path's registers `r` after `k` polls: `wcnt` counts only when there is a timeout (R206). -/
def afterPolls (c : Config) (k : Nat) (r : SlowRegs) : SlowRegs :=
  { r with wcnt := if 0 < c.adcTimeout then r.wcnt + k else r.wcnt }

theorem afterPolls_zero (c : Config) (r : SlowRegs) : afterPolls c 0 r = r := by
  simp [afterPolls]

theorem afterPolls_succ (c : Config) (k : Nat) (r : SlowRegs) :
    afterPolls c (k + 1) r = afterPolls c k (afterPolls c 1 r) := by
  by_cases hT : 0 < c.adcTimeout
  · simp [afterPolls, hT, Nat.add_comm, Nat.add_left_comm]
  · simp [afterPolls, hT]

theorem afterPolls_of_no_timeout {c : Config} (hT : c.adcTimeout = 0) (k : Nat) (r : SlowRegs) :
    afterPolls c k r = r := by
  simp [afterPolls, hT]

theorem afterPolls_of_timeout {c : Config} (hT : 0 < c.adcTimeout) (k : Nat) (r : SlowRegs) :
    afterPolls c k r = { r with wcnt := r.wcnt + k } := by
  simp [afterPolls, hT]

section Waiting

variable {s : State} {n : Nat} {v : InVec} {vs : List InVec} {r : SlowRegs}

theorem RunsTo.acqPoll (h : RunsTo s n (v :: vs) r) (hr : inRst v = false) (ha : r.astate = .wait)
    (hd : inDone v = false) (hT : s.cfg.adcTimeout = 0 ∨ r.wcnt + 1 < s.cfg.adcTimeout) :
    RunsTo s (n + 1) vs (afterPolls s.cfg 1 r) :=
  h.edge fun t hcfg hslow hin => by
    subst hslow hin
    rw [← hcfg] at hT ⊢
    exact slowAfter_poll hr ha hd (by omega)

/-- Polls without a completion, within the timeout if there is one. -/
theorem RunsTo.polls (ps : List InVec) (h : RunsTo s n (ps ++ vs) r) (ha : r.astate = .wait)
    (hps : ∀ v ∈ ps, inRst v = false ∧ inDone v = false)
    (hT : s.cfg.adcTimeout = 0 ∨ r.wcnt + ps.length < s.cfg.adcTimeout) :
    RunsTo s (n + ps.length) vs (afterPolls s.cfg ps.length r) := by
  induction ps generalizing n r with
  | nil => rwa [List.length_nil, Nat.add_zero, afterPolls_zero]
  | cons p ps ih =>
    rw [List.forall_mem_cons] at hps
    obtain ⟨⟨hr, hd⟩, hps⟩ := hps
    rw [List.length_cons] at hT
    have hpoll := h.acqPoll hr ha hd (by omega)
    rw [List.length_cons, afterPolls_succ, Nat.add_comm ps.length, ← Nat.add_assoc]
    refine ih hpoll ha hps (hT.imp_right fun hlt => ?_)
    rw [afterPolls_of_timeout (by omega)]
    dsimp only
    omega

end Waiting

/-- Settles O56: without a timeout a poll leaves even `wcnt` as it is. -/
theorem baselineStallHoldsSlowPath : Obligations.BaselineStallHoldsSlowPath := by
  intro s vs rest hc hT ha hstim hvs
  have hstart := RunsTo.start hc
  rw [hstim] at hstart
  have hrun := hstart.polls vs ha hvs (.inl hT)
  rw [afterPolls_of_no_timeout hT, Nat.zero_add] at hrun
  exact hrun.exists_slow

/-- Settles O57: `T - 1` polls raise `wcnt` to its last value, and the next edge is the timeout. -/
theorem timeoutAfterExactlyItsCycles : Obligations.TimeoutAfterExactlyItsCycles := by
  intro s vs rest hc hT ha hw hstim hlen hvs
  have hpolls (k : Nat) (hk : k < s.cfg.adcTimeout) :
      RunsTo s k (vs.drop k ++ rest) { s.slow with wcnt := k } := by
    have hstart := RunsTo.start hc
    rw [hstim, ← List.take_append_drop k vs, List.append_assoc] at hstart
    have htake : (vs.take k).length = k := List.length_take_of_le (by omega)
    have hrun := hstart.polls (vs.take k) ha (fun v hv => hvs v (List.mem_of_mem_take hv))
      (.inr (by rw [hw, htake]; omega))
    rw [htake, afterPolls_of_timeout hT, hw, Nat.zero_add] at hrun
    exact hrun
  refine ⟨fun k hk => (hpolls k hk).exists_slow, ?_⟩
  obtain ⟨v, hv⟩ : ∃ v, vs.drop (s.cfg.adcTimeout - 1) = [v] :=
    List.length_eq_one_iff.1 (by rw [List.length_drop]; omega)
  obtain ⟨hr, hd⟩ := hvs v (List.mem_of_mem_drop (hv ▸ List.mem_singleton_self v))
  have hlast := hpolls (s.cfg.adcTimeout - 1) (by omega)
  rw [hv] at hlast
  have hend := hlast.acqTimeout hr ha hd ⟨hT, rfl⟩
  rw [Nat.sub_add_cancel hT] at hend
  exact hend.exists_slow

/-! ### One acquisition -/

/-- ACQ_LAUNCH, the first edge of an acquisition, is the only one that reads the request bit. -/
theorem runsTo_acqLaunch {s : State} {v : InVec} {vs : List InVec} (hc : s.cfg.Legal) (hstim : s.stim = v :: vs)
    (hr : inRst v = false) (ha : s.slow.astate = .idle) (hp : s.acqPend = true) :
    RunsTo s 1 vs { s.slow with astate := .start } := by
  obtain ⟨t, ht⟩ := step_completes hc
  obtain ⟨hcfg, hstim', -⟩ := step_frame ht
  have hrst : rstIn s = false := by rwa [rstIn, sampledInput_cons s v vs hstim]
  refine ⟨hc, t, (runEdges_one s).trans ht, hcfg, by rw [hstim', hstim]; rfl, ?_⟩
  rw [step_slow ht, slowAfter_launch hrst ha (.inr hp)]

/-- The registers in BUILD of an acquisition on a full window that captured the sample `x` after `k` polls. -/
def acquired (c : Config) (r : SlowRegs) (k : Nat) (x : RawSample) : SlowRegs :=
  { r with
    astate := .build
    wcnt := if c.adcTimeout = 0 then 0 else k
    raw := x
    meas := scaleClamp c x
    ring := r.ring.set r.idx (scaleClamp c x)
    idx := (r.idx + 1) % c.window
    sum := r.sum - ringAt r r.idx + scaleClamp c x
    acqFault := false }

/-- From the launch to the new window. -/
theorem runsTo_acquired {s : State} {a b d e f : InVec} {ps vs : List InVec} (hc : s.cfg.Legal)
    (hidle : s.slow.astate = .idle) (hfull : s.slow.seedCnt = s.cfg.window) (hpend : s.acqPend = true)
    (hstim : s.stim = a :: b :: (ps ++ d :: e :: f :: vs)) (hrst : ∀ v ∈ [a, b, d, e, f] ++ ps, inRst v = false)
    (hps : ∀ v ∈ ps, inDone v = false) (hd : inDone d = true)
    (hT : s.cfg.adcTimeout = 0 ∨ ps.length < s.cfg.adcTimeout) :
    RunsTo s (ps.length + 5) vs (acquired s.cfg s.slow ps.length (inData d)) := by
  simp only [List.forall_mem_append, List.forall_mem_cons] at hrst
  obtain ⟨⟨hra, hrb, hrd, hre, hrf, -⟩, hrps⟩ := hrst
  have hwait := (runsTo_acqLaunch hc hstim hra hidle hpend).acqStart hrb rfl
  have hpolled := hwait.polls ps rfl (fun v hv => ⟨hrps v hv, hps v hv⟩)
    (hT.imp_right fun hlt => (Nat.zero_add _).trans_lt hlt)
  have hbuild := ((hpolled.acqCapture hrd rfl hd).acqScale hre rfl).acqUpdate hrf rfl hfull
  have hwcnt : (if 0 < s.cfg.adcTimeout then 0 + ps.length else 0) =
      if s.cfg.adcTimeout = 0 then 0 else ps.length := by
    split_ifs <;> omega
  have hedges : 1 + 1 + ps.length + 1 + 1 + 1 = ps.length + 5 := by omega
  rw [hedges] at hbuild
  rw [acquired, ← hwcnt]
  exact hbuild

/-- Settles O58: BUILD and PUBLISH follow on the acquired window. -/
theorem acquisitionEndToEnd : Obligations.AcquisitionEndToEnd := by
  intro s a b d e f g h ps rest hc hidle hfull hpend hstim hrst hps hd hT
  have hacquired := runsTo_acquired hc hidle hfull hpend hstim
    (fun v hv => hrst v (by simp only [List.mem_append, List.mem_cons] at hv ⊢; tauto)) hps hd hT
  have hend := (hacquired.acqBuild (hrst g (by simp)) rfl).acqPublish (hrst h (by simp)) rfl
  have hedges : ps.length + 5 + 1 + 1 = 6 + (ps.length + 1) := by omega
  rw [hedges, bankWrite_eq] at hend
  rw [bankWrite_eq]
  exact hend.exists_slow

end Sys2Proof.Proofs.Acquisition

/-! SUPPORT. The statements of 60_exceptions.md: the priorities of events at one edge (R248). -/

namespace Sys2Proof.Proofs.Exceptions

open Sys2Proof Sys2Proof.Machine Sys2Proof.Proofs.Registers Sys2Proof.Proofs.Memory Sys2Proof.Proofs.Scheduler
  Sys2Proof.Proofs.Acquisition

section Edge

variable {s t : State}

/-- Row 2 of R248: SCH_WAIT_VALID loses a tick (43_refresh_scheduler.md R163). -/
theorem step_fast_of_no_display (h : step s = .next t) (hr : rstIn s = false) (hv : s.slow.dispValid = false) :
    t.fast = s.fast := by
  rw [step_fast h]
  simp [fastAfter, hr, hv]

theorem step_slow_of_publish (h : step s = .next t) (hr : rstIn s = false) (ha : s.slow.astate = .publish) :
    t.slow = { s.slow with
      act := !s.slow.act, dispValid := true, pubVal := average s.cfg s.slow.sum, astate := .idle } :=
  (step_slow h).trans (slowAfter_publish hr ha)

theorem rstIn_of_schBlankToShow (hf : fastOp s = some .schBlankToShow) : rstIn s = false := by
  obtain ⟨-, -, -, -, hshow, -⟩ := fastOp_iff s
  exact (hshow.1 hf).1

/-- Rows 6 and 7 of R248: the set of `acq_pend` looks neither at the pending request nor at its clear. -/
theorem step_pend_of_request (h : step s = .next t) (hf : fastOp s = some .schShowToBlank)
    (hpos : s.fast.pos = s.cfg.digits - 1) (hcyc : s.fast.cyc = s.cfg.cadence - 1) : t.acqPend = true := by
  obtain ⟨hselect, -⟩ := schShowToBlankAdvancesAndCounts
  obtain ⟨hr, hv, htick, hphase, hdwell⟩ := (hselect s).1 hf
  exact (requestBitCombinesSetAndClear s t h).2 ⟨hr, .inl ⟨hv, htick, hphase, hdwell, hpos, hcyc⟩⟩

theorem step_astate_of_acqLaunch (h : step s = .next t) (ha : slowOp s = some .acqLaunch) :
    t.slow.astate = .start := by
  obtain ⟨hselect, -⟩ := acqLaunchConsumesRequest
  obtain ⟨hr, hidle, hgo⟩ := (hselect s).1 ha
  rw [step_slow h, slowAfter_launch hr hidle hgo]

/-- Row 8 of R248: while the window is filling nothing has been published, and without a display there is no request
(10_state.md R47). -/
theorem acqPend_of_seeding (hs : CoreInv s) (hseed : s.slow.seedCnt < s.cfg.window) : s.acqPend = false := by
  obtain ⟨-, -, hv⟩ := hs.struct.seeding_fills hseed
  obtain ⟨-, -, -, -, hpend⟩ := hs.struct.invalid_still hv
  exact hpend

end Edge

/-- Settles O37, row by row of the table of R248. -/
theorem prioritiesAtOneEdge : Obligations.PrioritiesAtOneEdge := by
  refine ⟨?reset, ?waitValid, ?firstPublish, ?oldBank, ?completion, ?setWins, ?merge, ?seeding⟩
  case reset => exact fun s t h hr => step_of_rst h hr
  case waitValid => exact fun s t h hr hv => step_fast_of_no_display h hr hv
  case firstPublish =>
    intro s t h hr ha hv
    exact ⟨step_fast_of_no_display h hr hv, by rw [step_slow_of_publish h hr ha]⟩
  case oldBank =>
    intro s t h ha hf
    rw [step_fast_of_schBlankToShow h hf, step_slow_of_publish h (rstIn_of_schBlankToShow hf) ha]
    exact ⟨rfl, rfl⟩
  case completion =>
    intro s t h hr ha hd _
    rw [step_slow h, slowAfter_capture hr ha hd]
    exact ⟨rfl, rfl, rfl⟩
  case setWins =>
    intro s t h hf hpos hcyc ha
    exact ⟨step_pend_of_request h hf hpos hcyc, step_astate_of_acqLaunch h ha⟩
  case merge => exact fun s t h hf hpos hcyc _ => step_pend_of_request h hf hpos hcyc
  case seeding =>
    rintro s hs ⟨hseed, hpend⟩
    exact Bool.false_ne_true ((acqPend_of_seeding hs hseed).symm.trans hpend)

end Sys2Proof.Proofs.Exceptions

/-! SUPPORT. The statements of 70_reset_and_hazards.md: the stimulus programs that are accepted (R272), the reset edge
(R270), and the boot sequence (R273). -/

namespace Sys2Proof.Proofs.Reset

open Sys2Proof Sys2Proof.Machine Sys2Proof.Proofs.Registers Sys2Proof.Proofs.Exceptions
  Sys2Proof.Proofs.Acquisition

/-! ### Stimulus programs -/

theorem stimulusWf_iff (vs : List InVec) : stimulusWf vs = true ↔ ∃ w ws, vs = w :: ws ∧ inRst w = true := by
  cases vs with
  | nil => simp [stimulusWf]
  | cons v vs => simp [stimulusWf, inRst]

/-- Settles O32. -/
theorem programsMustBeginWithReset : Obligations.ProgramsMustBeginWithReset := by
  intro p s
  rw [← stimulusWf_iff]
  exact ⟨fun h => if_pos h, fun h => if_neg h⟩

/-! ### The reset edge -/

/-- `seeded`, a bit of `status_o`, is 0 after reset because the window has at least one entry. -/
theorem outputs_of_reset {t : State} (hc : t.cfg.Legal) (hf : t.fast = FastRegs.reset)
    (hr : t.slow = SlowRegs.reset t.cfg) :
    outputs t = { digEnO := 0, segO := 0, adcStartO := false, adcChanO := BitVec.ofNat 3 t.cfg.adcChannel,
                  statusO := 0, valueO := 0 } := by
  obtain ⟨_, _, hN, _⟩ := legal_ranges hc
  have hseeded : seeded t = false := by
    rw [seeded, hr]
    exact decide_eq_false (Nat.ne_of_lt hN)
  have hbusy : busy t = false := by simp [busy, hr]
  have hstatus : statusOut t = 0 := by simp [statusOut, hseeded, hbusy, hr]
  rw [outputs, hstatus, hf, hr]
  rfl

/-- Settles O35. -/
theorem resetEdgeClearsEverything : Obligations.ResetEdgeClearsEverything := by
  intro s hc hr
  obtain ⟨hselect, -⟩ := Scheduler.schResetClearsFastPath
  obtain ⟨t, ht⟩ := step_completes hc
  obtain ⟨hcfg, -⟩ := step_frame ht
  obtain ⟨hfast, hslow, hpend⟩ := step_of_rst ht hr
  refine ⟨(hselect s).2 hr, (slowOp_eq_acqReset_iff s).2 hr, t, ht, hcfg, hfast, hpend, hslow, ?_⟩
  rw [← hcfg] at hc hslow ⊢
  exact outputs_of_reset hc hfast hslow

/-! ### The display during boot -/

theorem runEdges_keeps_dispValid {vs rest : List InVec} {s t : State} (hc : s.cfg.Legal)
    (h : runEdges vs.length s = .next t) (hstim : s.stim = vs ++ rest) (hrst : ∀ v ∈ vs, inRst v = false)
    (hv : s.slow.dispValid = true) : t.slow.dispValid = true := by
  induction vs generalizing s with
  | nil =>
    cases h
    exact hv
  | cons v vs ih =>
    rw [List.forall_mem_cons] at hrst
    obtain ⟨hrv, hrst⟩ := hrst
    have hr : rstIn s = false := by rwa [rstIn, sampledInput_cons s v (vs ++ rest) hstim]
    obtain ⟨u, hu⟩ := step_completes hc
    obtain ⟨hcfg, hstim', -⟩ := step_frame hu
    rw [List.length_cons, runEdges_succ _ hu] at h
    refine ih (hcfg ▸ hc) h (by rw [hstim', hstim]; rfl) hrst ?_
    rw [step_slow hu]
    exact slowAfter_dispValid_of_valid hr hv

/-- What is not displayed at the end of a run without reset was not displayed on the way. -/
theorem dispValid_of_later {s t u : State} {vs rest : List InVec} {k m : Nat} (hc : s.cfg.Legal) (hk : k ≤ m)
    (hm : m ≤ vs.length) (hstim : s.stim = vs ++ rest) (hrst : ∀ v ∈ vs, inRst v = false)
    (ht : runEdges k s = .next t) (hu : runEdges m s = .next u) (hv : u.slow.dispValid = false) :
    t.slow.dispValid = false := by
  obtain ⟨t', ht', hcfg, hstim'⟩ := runEdges_completes k s hc
  obtain rfl : t' = t := Host.Outcome.next.inj (ht'.symm.trans ht)
  have hlen : ((vs.drop k).take (m - k)).length = m - k := by
    rw [List.length_take, List.length_drop]
    omega
  have hsplit : t'.stim = (vs.drop k).take (m - k) ++ ((vs.drop k).drop (m - k) ++ rest) := by
    rw [hstim', hstim, List.drop_append_of_le_length (hk.trans hm), ← List.append_assoc, List.take_append_drop]
  have hrun : runEdges ((vs.drop k).take (m - k)).length t' = .next u := by
    rw [hlen, ← runEdges_add k (m - k) s t' ht, Nat.add_sub_cancel' hk, hu]
  exact Bool.eq_false_of_not_eq_true fun hvt =>
    Bool.false_ne_true (hv.symm.trans (runEdges_keeps_dispValid (hcfg ▸ hc) hrun hsplit
      (fun v hv => hrst v (List.mem_of_mem_drop (List.mem_of_mem_take hv))) hvt))

/-- Without a display the lines are dark: the fast path rests in Blank (10_state.md R47). -/
theorem dark_of_not_dispValid {t : State} (h : CoreInv t) (hv : t.slow.dispValid = false) :
    (outputs t).digEnO = 0 ∧ (outputs t).segO = 0 := by
  obtain ⟨hphase, -⟩ := h.struct.invalid_still hv
  exact h.struct.blank_dark hphase

/-- The edge of the first publish, like every edge before it, finds no display, so it leaves the fast path at rest. -/
theorem step_rests_of_not_dispValid {s t : State} (hs : CoreInv s) (h : step s = .next t) (hr : rstIn s = false)
    (hv : s.slow.dispValid = false) : t.fast = FastRegs.reset ∧ t.acqPend = false := by
  obtain ⟨-, -, -, hrests⟩ := (coreInv_iff s).1 hs
  obtain ⟨hf, hp⟩ := hrests hv
  exact ⟨(step_fast_of_no_display h hr hv).trans hf, by simp [step_pend h, hv, hp]⟩

/-! ### One seed -/

section Seeding

variable {s : State} {n : Nat} {v : InVec} {vs : List InVec} {r : SlowRegs}

/-- While the window is filling, the sequencer launches without a request (44_acquisition_and_digit_buffer.md R204). -/
theorem runsTo_seedLaunch (h : RunsTo s n (v :: vs) r) (hr : inRst v = false) (ha : r.astate = .idle)
    (hseed : r.seedCnt < s.cfg.window) : RunsTo s (n + 1) vs { r with astate := .start } :=
  h.edge fun t hcfg hslow hin => by
    subst hslow hin
    rw [← hcfg] at hseed
    exact slowAfter_launch hr ha (.inl hseed)

/-- ACQ_SEED and ACQ_SEED_LAST in one: the sample that fills the window goes on to BUILD
(41_moving_average_filter.md R123, R124). -/
def seedWrite (c : Config) (r : SlowRegs) : SlowRegs :=
  { filterWrite c r r.meas with
    seedCnt := r.seedCnt + 1
    astate := if r.seedCnt + 1 = c.window then .build else .idle }

theorem runsTo_seedWrite (h : RunsTo s n (v :: vs) r) (hr : inRst v = false) (ha : r.astate = .filter)
    (hseed : r.seedCnt < s.cfg.window) : RunsTo s (n + 1) vs (seedWrite s.cfg r) :=
  h.edge fun t hcfg hslow hin => by
    subst hslow hin
    rw [← hcfg] at hseed ⊢
    by_cases hlast : t.slow.seedCnt + 1 = t.cfg.window
    · rw [slowAfter_seedLast hr ha hlast, seedWrite, if_pos hlast, hlast]
    · rw [slowAfter_seed hr ha (by omega), seedWrite, if_neg hlast]

/-- The registers in FILTER of an acquisition that captured the sample `x` in its first WAIT cycle. -/
def measured (c : Config) (r : SlowRegs) (x : RawSample) : SlowRegs :=
  { r with astate := .filter, wcnt := 0, raw := x, meas := scaleClamp c x, acqFault := false }

/-- The five edges of one seed. -/
theorem runsTo_seed {a b d e f : InVec} (h : RunsTo s n (a :: b :: d :: e :: f :: vs) r)
    (hrst : ∀ v ∈ [a, b, d, e, f], inRst v = false) (hd : inDone d = true) (ha : r.astate = .idle)
    (hseed : r.seedCnt < s.cfg.window) : RunsTo s (n + 5) vs (seedWrite s.cfg (measured s.cfg r (inData d))) := by
  simp only [List.forall_mem_cons] at hrst
  obtain ⟨hra, hrb, hrd, hre, hrf, -⟩ := hrst
  have hwait := (runsTo_seedLaunch h hra ha hseed).acqStart hrb rfl
  have hfilter := (hwait.acqCapture hrd rfl hd).acqScale hre rfl
  exact runsTo_seedWrite hfilter hrf rfl hseed

end Seeding

/-! ### The window while it fills -/

/-- The slow path's registers after the seeds `xs`: they lie in the ring in order, above them the entries of reset. -/
structure SeededWith (c : Config) (xs : List Nat) (r : SlowRegs) : Prop where
  ring_eq : r.ring = xs ++ List.replicate (c.window - xs.length) 0
  idx_eq : r.idx = xs.length % c.window
  sum_eq : r.sum = xs.sum
  seedCnt_eq : r.seedCnt = xs.length
  dispValid_eq : r.dispValid = false
  astate_eq : r.astate = if xs.length = c.window then .build else .idle

theorem seededWith_nil {c : Config} (hc : c.Legal) : SeededWith c [] (SlowRegs.reset c) := by
  obtain ⟨_, _, hN, _⟩ := legal_ranges hc
  exact
    { ring_eq := rfl
      idx_eq := (Nat.zero_mod c.window).symm
      sum_eq := rfl
      seedCnt_eq := rfl
      dispValid_eq := rfl
      astate_eq := (if_neg (Nat.ne_of_lt hN)).symm }

/-- The first free entry of the ring takes the new sample. -/
theorem set_append_replicate (xs : List Nat) {k : Nat} (m : Nat) (hk : 0 < k) :
    (xs ++ List.replicate k 0).set xs.length m = xs ++ [m] ++ List.replicate (k - 1) 0 := by
  obtain ⟨k, rfl⟩ := Nat.exists_eq_succ_of_ne_zero hk.ne'
  simp [List.replicate_succ]

theorem SeededWith.seed {c : Config} {xs : List Nat} {r : SlowRegs} (h : SeededWith c xs r)
    (hlt : xs.length < c.window) (x : RawSample) :
    SeededWith c (xs ++ [scaleClamp c x]) (seedWrite c (measured c r x)) := by
  have hidx : r.idx = xs.length := h.idx_eq.trans (Nat.mod_eq_of_lt hlt)
  have hfree : ringAt r r.idx = 0 := by
    rw [ringAt, h.ring_eq, hidx, List.getD_append_right _ _ _ _ le_rfl]
    simp
  exact
    { ring_eq := by
        have hset := set_append_replicate xs (scaleClamp c x) (Nat.sub_pos_of_lt hlt)
        simpa [seedWrite, measured, h.ring_eq, hidx, Nat.sub_sub] using hset
      idx_eq := by simp [seedWrite, measured, hidx]
      sum_eq := by
        change r.sum - ringAt r r.idx + scaleClamp c x = _
        simp [hfree, h.sum_eq]
      seedCnt_eq := by simp [seedWrite, measured, h.seedCnt_eq]
      dispValid_eq := h.dispValid_eq
      astate_eq := by simp [seedWrite, measured, h.seedCnt_eq] }

theorem SeededWith.full {c : Config} {xs : List Nat} {r : SlowRegs} (h : SeededWith c xs r)
    (hN : xs.length = c.window) : r.ring = xs ∧ r.idx = 0 ∧ r.seedCnt = c.window ∧ r.astate = .build :=
  ⟨by simp [h.ring_eq, hN], by rw [h.idx_eq, hN, Nat.mod_self], h.seedCnt_eq.trans hN,
    h.astate_eq.trans (if_pos hN)⟩

/-! ### The inputs of seeding -/

/-- The samples of the first `j` seeds, when each ends at its fifth edge: `seedSamples` cut off after `j`. -/
def firstSeeds (c : Config) (vs : List InVec) (j : Nat) : List Nat :=
  (List.range j).map (fun i => scaleClamp c (inData (vs.getD (5 * i + 2) 0)))

theorem firstSeeds_succ (c : Config) (vs : List InVec) (j : Nat) :
    firstSeeds c vs (j + 1) = firstSeeds c vs j ++ [scaleClamp c (inData (vs.getD (5 * j + 2) 0))] := by
  simp [firstSeeds, List.range_succ]

@[simp] theorem firstSeeds_length (c : Config) (vs : List InVec) (j : Nat) : (firstSeeds c vs j).length = j := by
  simp [firstSeeds]

theorem seedSamples_length (c : Config) (vs : List InVec) : (seedSamples c vs).length = c.window :=
  firstSeeds_length c vs c.window

theorem seedSamples_of_constant {c : Config} {vs : List InVec} {x : RawSample} (hlen : 5 * c.window ≤ vs.length)
    (hx : ∀ v ∈ vs, inData v = x) : seedSamples c vs = List.replicate c.window (scaleClamp c x) := by
  refine List.eq_replicate_iff.2 ⟨seedSamples_length c vs, fun m hm => ?_⟩
  obtain ⟨j, hj, rfl⟩ := List.mem_map.1 hm
  have hlt : 5 * j + 2 < vs.length := by
    have := List.mem_range.1 hj
    omega
  rw [List.getD_eq_getElem vs 0 hlt, hx _ (List.getElem_mem hlt)]

/-- The next five vectors, the third of them by its index. -/
theorem exists_five_of_drop {vs : List InVec} {n : Nat} (h : n + 5 ≤ vs.length) :
    ∃ a b e f, vs.drop n = a :: b :: vs.getD (n + 2) 0 :: e :: f :: vs.drop (n + 5) := by
  refine ⟨vs[n], vs[n + 1], vs[n + 3], vs[n + 4], ?_⟩
  rw [List.getD_eq_getElem vs 0 (by omega), List.drop_eq_getElem_cons (by omega : n < vs.length),
    List.drop_eq_getElem_cons (by omega : n + 1 < vs.length), List.drop_eq_getElem_cons (by omega : n + 2 < vs.length),
    List.drop_eq_getElem_cons (by omega : n + 3 < vs.length), List.drop_eq_getElem_cons (by omega : n + 4 < vs.length)]

/-! ### The boot sequence -/

section Boot

variable {c : Config} {vs rest : List InVec}

theorem runsTo_seeded (hc : c.Legal) (hvs : ∀ v ∈ vs, inRst v = false ∧ inDone v = true)
    (hlen : 5 * c.window ≤ vs.length) {j : Nat} (hj : j ≤ c.window) :
    ∃ r, RunsTo (State.resetWith c (vs ++ rest)) (5 * j) (vs.drop (5 * j) ++ rest) r ∧
      SeededWith c (firstSeeds c vs j) r := by
  induction j with
  | zero => exact ⟨SlowRegs.reset c, RunsTo.start hc, seededWith_nil hc⟩
  | succ j ih =>
    obtain ⟨r, hrun, hr⟩ := ih (by omega)
    obtain ⟨a, b, e, f, hdrop⟩ := exists_five_of_drop (vs := vs) (n := 5 * j) (by omega)
    have hmem : ∀ v ∈ [a, b, vs.getD (5 * j + 2) 0, e, f], inRst v = false ∧ inDone v = true := fun v hv =>
      hvs v (List.mem_of_mem_drop (i := 5 * j) (by
        rw [hdrop]
        exact List.mem_append_left (vs.drop (5 * j + 5)) hv))
    have hcnt : r.seedCnt < c.window := by
      rw [hr.seedCnt_eq, firstSeeds_length]
      exact hj
    have hidle : r.astate = .idle := by
      rw [hr.astate_eq, firstSeeds_length]
      exact if_neg (Nat.ne_of_lt hj)
    rw [hdrop] at hrun
    refine ⟨_, runsTo_seed hrun (fun v hv => (hmem v hv).1) (hmem _ (by simp)).2 hidle hcnt, ?_⟩
    rw [firstSeeds_succ]
    exact hr.seed (by rwa [firstSeeds_length]) _

/-- The registers in PUBLISH, from those in BUILD. -/
def built (c : Config) (r : SlowRegs) : SlowRegs :=
  { bankWrite r (!r.act) (digitPatterns c (average c r.sum)) with astate := .publish }

/-- The registers after PUBLISH, from those in BUILD. -/
def published (c : Config) (r : SlowRegs) : SlowRegs :=
  { built c r with act := !r.act, dispValid := true, pubVal := average c r.sum, astate := .idle }

/-- BUILD and PUBLISH leave the filter as it is. -/
theorem published_filter (c : Config) (r : SlowRegs) :
    (published c r).ring = r.ring ∧ (published c r).idx = r.idx ∧ (published c r).sum = r.sum ∧
      (published c r).seedCnt = r.seedCnt :=
  ⟨bankWrite_ring .., bankWrite_idx .., bankWrite_sum .., bankWrite_seedCnt ..⟩

/-- The bank that PUBLISH displays is the one that BUILD wrote. -/
theorem bankOf_published (c : Config) (r : SlowRegs) :
    bankOf (published c r) (published c r).act = digitPatterns c (published c r).pubVal :=
  (bankOf_bankWrite _ _ _ _).trans (by simp [published])

/-- The edge of PUBLISH, the `5N + 2`-nd after reset. -/
theorem exists_publish_edge (hc : c.Legal) (hlen : vs.length = 5 * c.window + 2)
    (hvs : ∀ v ∈ vs, inRst v = false ∧ inDone v = true) :
    ∃ r u t, SeededWith c (seedSamples c vs) r ∧
      runEdges (5 * c.window + 1) (State.resetWith c (vs ++ rest)) = .next u ∧ rstIn u = false ∧
      u.slow.dispValid = false ∧ step u = .next t ∧ t.slow = published c r := by
  obtain ⟨r, hrun, hr⟩ := runsTo_seeded (rest := rest) hc hvs (by omega) (le_refl c.window)
  obtain ⟨g, h, hgh⟩ : ∃ g h, vs.drop (5 * c.window) = [g, h] :=
    List.length_eq_two.1 (by rw [List.length_drop]; omega)
  have hrst : ∀ v ∈ [g, h], inRst v = false := fun v hv =>
    (hvs v (List.mem_of_mem_drop (i := 5 * c.window) (by rwa [hgh]))).1
  obtain ⟨-, -, -, hbuild⟩ := hr.full (seedSamples_length c vs)
  rw [hgh] at hrun
  obtain ⟨-, u, hu, hcfg, hstim, hslow⟩ := hrun.acqBuild (hrst g (by simp)) hbuild
  replace hcfg : u.cfg = c := hcfg
  obtain ⟨t, ht⟩ := step_completes (hcfg ▸ hc : u.cfg.Legal)
  have hru : rstIn u = false := by
    rw [rstIn, sampledInput_cons u h rest hstim]
    exact hrst h (by simp)
  refine ⟨r, u, t, hr, hu, hru, ?valid, ht, ?slow⟩
  case valid =>
    rw [hslow]
    exact (bankWrite_dispValid ..).trans hr.dispValid_eq
  case slow =>
    rw [step_slow_of_publish ht hru (by rw [hslow]), hslow, hcfg]
    simp [published, built]

/-- The reset values meet the invariant, so every state of a run from them does. -/
theorem coreInv_of_boot (hc : c.Legal) {n : Nat} {t : State}
    (ht : runEdges n (State.resetWith c vs) = .next t) : CoreInv t := by
  obtain ⟨t', ht', hinv⟩ := runEdges_keeps_coreInv n (s := State.resetWith c vs) (coreInv_of_reset hc rfl rfl rfl)
  obtain rfl : t' = t := Host.Outcome.next.inj (ht'.symm.trans ht)
  exact hinv

end Boot

/-- Settles O59: seeding ends in BUILD, PUBLISH is two edges later, and before it nothing is displayed. -/
theorem bootSeedsAndPublishes : Obligations.BootSeedsAndPublishes := by
  intro c vs rest hc hlen hvs
  obtain ⟨r, u, t, hr, hu, hru, hvu, ht, hslow⟩ := exists_publish_edge (rest := rest) hc hlen hvs
  refine ⟨fun k hk => ?dark, t, ?publish⟩
  case dark =>
    obtain ⟨w, hw, -⟩ := runEdges_completes k (State.resetWith c (vs ++ rest)) hc
    have hvw : w.slow.dispValid = false :=
      dispValid_of_later (s := State.resetWith c (vs ++ rest)) hc (Nat.le_of_lt_succ hk) (by omega) rfl
        (fun v hv => (hvs v hv).1) hw hu hvu
    exact ⟨w, hw, hvw, dark_of_not_dispValid (coreInv_of_boot hc hw) hvw⟩
  case publish =>
    obtain ⟨hfast, hpend⟩ := step_rests_of_not_dispValid (coreInv_of_boot hc hu) ht hru hvu
    obtain ⟨hring, hidx, hcnt, -⟩ := hr.full (seedSamples_length c vs)
    obtain ⟨hring', hidx', hsum', hcnt'⟩ := published_filter c r
    have hpub : t.slow.pubVal = (seedSamples c vs).sum / c.window := by
      rw [hslow, ← hr.sum_eq]
      rfl
    have hconst (x : RawSample) (hx : ∀ v ∈ vs, inData v = x) : t.slow.pubVal = scaleClamp c x := by
      obtain ⟨_, _, hN, _⟩ := legal_ranges hc
      rw [hpub, seedSamples_of_constant (by omega) hx, List.sum_replicate, smul_eq_mul, Nat.mul_div_cancel_left _ hN]
    refine ⟨?run, by rw [hslow]; rfl, hfast, hpend, by rw [hslow]; rfl, by rw [hslow, hring', hring],
      by rw [hslow, hidx', hidx], by rw [hslow, hcnt', hcnt], by rw [hslow, hsum', hr.sum_eq], hpub,
      by rw [hslow, bankOf_published], hconst⟩
    case run => rw [runEdges_add (5 * c.window + 1) 1 _ u hu, runEdges_one, ht]

end Sys2Proof.Proofs.Reset
